-- ==== Sys2Proof/Word.lean ====
section
/-! DEFINITION. The word types of the NZ-3140 and the two list-built constructions of fixed-size tables. -/

namespace Sys2Proof

/-- A byte of a control-port frame or of a tile-bus message (R185). -/
abbrev Byte := BitVec 8

/-- A two-byte field (R185). -/
abbrev Half := BitVec 16

/-- A frame number: a 32-bit count that wraps from 2^32 − 1 to 0 (00_scope, Frame numbers and times). -/
abbrev FrameNo := BitVec 32

/-- A station number. It occupies one byte (R185); the numbers of stations are 0..31. -/
abbrev Station := BitVec 8

/-- The table of `n` entries whose entry `i` is `f i`. -/
def tabulate {α : Type} (n : Nat) (f : Nat → α) : Vector α n :=
  ⟨⟨(List.range n).map f⟩, by simp⟩

/-- The table with `f` applied to every entry. -/
def mapTable {α β : Type} {n : Nat} (f : α → β) (v : Vector α n) : Vector β n :=
  ⟨⟨v.toList.map f⟩, by simp⟩

@[simp] theorem tabulate_getElem? {α : Type} (n : Nat) (f : Nat → α) (i : Nat) :
    (tabulate n f)[i]? = if i < n then some (f i) else none := by
  by_cases h : i < n <;> simp [tabulate, h]

@[simp] theorem mapTable_getElem? {α β : Type} {n : Nat} (f : α → β) (v : Vector α n) (i : Nat) :
    (mapTable f v)[i]? = v[i]?.map f := by
  by_cases h : i < n <;> simp [mapTable, h]

@[simp] theorem tabulate_getElem {α : Type} (n : Nat) (f : Nat → α) (i : Nat) (h : i < n) : (tabulate n f)[i] = f i := by
  simp [tabulate]

@[simp] theorem mapTable_getElem {α β : Type} {n : Nat} (f : α → β) (v : Vector α n) (i : Nat) (h : i < n) :
    (mapTable f v)[i] = f v[i] := by
  simp [mapTable]

end Sys2Proof
end

