-- ==== Sys2Proof/Syntax.lean ====
section
/-! DEFINITION. The commands of the NZ-3140: one constructor of Instr per row of spec/opcode_table.json, and the types of
their operands. -/

namespace Sys2Proof

/-- An edit id: (proposer, sequence) (00_scope, Edit ids). The proposer of a station's edit is 0..31; a message can carry
any byte there. -/
structure EditId where
  proposer : Station
  sequence : Byte
  deriving DecidableEq, Repr

/-- A colour record: R, G and B, each in 0..1023 (00_scope, Colour records). -/
structure Colour where
  r : BitVec 10
  g : BitVec 10
  b : BitVec 10
  deriving DecidableEq, Repr

/-- The colour with every component 0. -/
def Colour.black : Colour := ⟨0, 0, 0⟩

/-- The kind and contents of an edit, without the colour records (R16, R19, R161). -/
inductive Target where
  /-- PALETTE: start, count and check value. -/
  | palette (start : Byte) (count check : Half)
  /-- PAN: x and y. -/
  | pan (x y : Half)
  /-- LEVEL: the value. -/
  | level (value : Byte)
  /-- BLANK: on or off. -/
  | blank (on : Bool)
  deriving DecidableEq, Repr

/-- The payload of a BEACON (R159, R161, R186). The role is the code byte, which R74 screens. -/
structure Beacon where
  role       : Byte
  frame      : FrameNo
  version    : Half
  locked     : Bool
  lineLength : Half
  lines      : Half
  stampFrame : FrameNo
  stampPhase : BitVec 32
  stampValid : Bool
  deriving DecidableEq, Repr

/-- What a DUMP-BEGIN carries beside the requester: F, V, pan x, pan y, level and blank (R131, R161). -/
structure Header where
  frame   : FrameNo
  version : Half
  panX    : Half
  panY    : Half
  level   : Byte
  blank   : Bool
  deriving DecidableEq, Repr

/-- The fourteen message kinds of the tile bus (R161). -/
inductive MsgKind where
  | take | drop | outcome | beacon | accept | refuse | propose | query | farewell
  | dumpRequest | dumpBegin | dumpEnd | data | dumpData
  deriving DecidableEq, Repr

/-- A tile-bus message: its kind with its payload fields (R161). A reason is the code byte, taken as it stands (R186). -/
inductive Message where
  | take (id : EditId)
  | drop (id : EditId) (reason : Byte)
  | outcome (id : EditId) (taken : Bool)
  | beacon (b : Beacon)
  | accept (id : EditId)
  | refuse (id : EditId) (reason : Byte)
  | propose (id : EditId) (takeFrame : FrameNo) (target : Target)
  | query (id : EditId)
  | farewell (station : Station)
  | dumpRequest (requester : Station)
  | dumpBegin (requester : Station) (header : Header)
  | dumpEnd (requester : Station) (torn : Bool) (check : Half)
  | data (id : EditId) (fragment : Byte) (records : List Colour)
  | dumpData (requester : Station) (fragment : Byte) (records : List Colour)
  deriving DecidableEq, Repr

/-- The result of the acknowledgment window (R147), as the other stations' errors and acknowledgments make it. -/
inductive Window where
  /-- No error, at least one acknowledgment: delivered and heard. -/
  | heard
  /-- No error, no acknowledgment: delivered and unheard. -/
  | unheard
  /-- An error signalled by another station: void. -/
  | void
  deriving DecidableEq, Repr

/-- How the station's own attempt ends on the bus: the bytes that the transmitter read while it sent its message, and the
window (R147, R148). -/
structure Completion where
  readBack : List Byte
  window   : Window
  deriving DecidableEq, Repr

/-- The values a CONFIGURE carries, one for every field of R174. -/
structure Geometry where
  station      : Station
  lineLength   : Half
  lines        : Half
  width        : Half
  height       : Half
  x0           : Half
  y0           : Half
  canvasWidth  : Half
  canvasHeight : Half
  base         : BitVec 24
  stride       : Half
  deriving DecidableEq, Repr

/-- A control-port command with its parameters, as its frame carries it (R185). -/
inductive Request where
  | status
  | configure (g : Geometry)
  | join
  | leave
  | submitPalette (lead start : Byte) (count : Half) (records : List Colour)
  | submitPan (lead : Byte) (x y : Half)
  | submitLevel (lead value : Byte)
  | submitBlank (lead on : Byte)
  | readPeer (index : Byte)
  | readEdit (index : Byte)
  | readPalette (index : Byte)
  | readEvent
  | reset
  deriving DecidableEq, Repr

/-- The response codes (R173). Their byte values are not in the code table of R185 (log 27). -/
inductive ResponseCode where
  | done | empty | refused
  deriving DecidableEq, Repr

/-- The pieces of the blocks' work at one frame start whose order the spec leaves open in part (R11, R41, R88, R112,
R120, R123, R135, R138, R139, R158). -/
inductive FrameWork where
  /-- Frame Timer: reads the Peer Table, chooses the correction, may decide an adopt (R95 to R109). -/
  | frameTimer
  /-- Edit Unit: drops every entry at a renumber (R41). -/
  | editRenumber
  /-- Role Controller: acts on the adopt handed to it (R119, R126). -/
  | roleAdopt
  /-- Peer Table: the miss count (R77). -/
  | missCount
  /-- Peer Table and Role Controller: the verdicts of the ending frame (R86, R123 to R125). -/
  | verdictCount
  /-- Role Controller: the promotion test (R120). -/
  | promotion
  /-- Role Controller: the founding wait, with founding and the expiry in ALIGN (R117, R118, R121). -/
  | foundingWait
  /-- Catch-Up Unit: the dump apply, step 2 of R11 (R138). -/
  | dumpApply
  /-- Edit Unit: the due entries, steps 3 and 4 of R11 (R36 to R38). -/
  | applications
  /-- Edit Unit: the deadline of own entries (R53). -/
  | ownDeadlines
  /-- Edit Unit: the collection deadline (R60). -/
  | collectionDeadlines
  /-- Edit Unit: the query waits (R65). -/
  | queryWaits
  /-- Edit Unit: accepted voters whose take frame has come (R64). -/
  | goInDoubt
  /-- Edit Unit: complete observers sixteen frames on (R69). -/
  | observerExpiry
  /-- Catch-Up Unit: the ask, receive and retry waits and the loss of the responder (R132, R135, R136). -/
  | catchUpWaits
  /-- Bus Interface: the beacon of the frame (R158). -/
  | beaconRenewal
  deriving DecidableEq, Repr

/-- The commands: one constructor per row of spec/opcode_table.json. An operand is what the outside decides about the
event; a `frame` is a command frame as shifted in, an `order` the order of the blocks' work at a frame start. -/
inductive Instr where
  | powerOnReset
  | resetPin
  | status (frame : List Byte)
  | configure (frame : List Byte)
  | join (frame : List Byte)
  | leave (frame : List Byte)
  | submitPalette (frame : List Byte)
  | submitPan (frame : List Byte)
  | submitLevel (frame : List Byte)
  | submitBlank (frame : List Byte)
  | readPeer (frame : List Byte)
  | readEdit (frame : List Byte)
  | readPalette (frame : List Byte)
  | readEvent (frame : List Byte)
  | reset (frame : List Byte)
  | transactionVoided
  | frameStart (order : List FrameWork)
  | peerSilent (peer : Station) (order : List FrameWork)
  | founding (order : List FrameWork)
  | foundingWaitExpiryAlign (order : List FrameWork)
  | queryWaitExpiry (id : EditId) (order : List FrameWork)
  | askWaitExpiry (order : List FrameWork)
  | receiveWaitExpiry (order : List FrameWork)
  | retryWaitExpiry (order : List FrameWork)
  | fetchIssue (line : Nat)
  | readAnswer (index : Byte)
  | fetchCut
  | activePixelScan (line pixel : Nat)
  | attemptStart (rivals : List (List Byte))
  | receptionStart
  | attemptCompletion (completion : Completion)
  | corruptReception
  | voidReception
  | beaconArrival (sender : Station) (beacon : Beacon)
  | farewellArrival (sender station : Station)
  | proposeArrival (sender : Station) (id : EditId) (takeFrame : FrameNo) (target : Target)
  | dataArrival (sender : Station) (id : EditId) (fragment : Byte) (records : List Colour)
  | acceptArrival (sender : Station) (id : EditId)
  | refuseArrival (sender : Station) (id : EditId) (reason : Byte)
  | takeArrival (sender : Station) (id : EditId)
  | dropArrival (sender : Station) (id : EditId) (reason : Byte)
  | queryArrival (sender : Station) (id : EditId)
  | outcomeArrival (sender : Station) (id : EditId) (taken : Bool)
  | dumpRequestArrival (sender requester : Station)
  | dumpBeginArrival (sender requester : Station) (header : Header)
  | dumpDataArrival (sender requester : Station) (fragment : Byte) (records : List Colour)
  | dumpEndArrival (sender requester : Station) (torn : Bool) (check : Half)
  | messageDiscarded (bytes : List Byte)
  | transactionSelect
  | transactionDeselect
  | readRequestIssue
  | idleGap
  deriving DecidableEq, Repr

end Sys2Proof
end

