-- ==== Sys2Proof/Decode.lean ====
section
/-! DEFINITION. decodeTableWord (no row of the opcode table has bits), and the byte layouts of R185 and R186: the frame check,
command frames and tile-bus messages, each with its reader and its writer. -/

namespace Sys2Proof

/-- The command that a word spells by the table's bits. No row of spec/opcode_table.json gives bits, so no word spells a
command. -/
def decodeTableWord (_nbits _w : Nat) : Option Instr := none

/-! ### Bytes, most significant first (R185) -/

/-- The two bytes of a two-byte field. -/
def bytes2 (x : Half) : List Byte := [x.extractLsb' 8 8, x.extractLsb' 0 8]

/-- The three bytes of a three-byte field. -/
def bytes3 (x : BitVec 24) : List Byte := [x.extractLsb' 16 8, x.extractLsb' 8 8, x.extractLsb' 0 8]

/-- The four bytes of a four-byte field. -/
def bytes4 (x : BitVec 32) : List Byte :=
  [x.extractLsb' 24 8, x.extractLsb' 16 8, x.extractLsb' 8 8, x.extractLsb' 0 8]

/-- A two-byte field from its bytes. -/
def ofBytes2 (a b : Byte) : Half := a ++ b

/-- A three-byte field from its bytes. -/
def ofBytes3 (a b c : Byte) : BitVec 24 := a ++ b ++ c

/-- A four-byte field from its bytes. -/
def ofBytes4 (a b c d : Byte) : BitVec 32 := a ++ b ++ c ++ d

/-- A flag's byte: 1 for true (R185). -/
def flagByte (f : Bool) : Byte := if f then 1 else 0

/-- A byte that must be 0 or 1 (R186). -/
def ofFlagByte (b : Byte) : Option Bool :=
  if b = 0 then some false else if b = 1 then some true else none

/-- A flags byte: the given flag at each of bits 0 to 4, the other bits 0 (R185). -/
def flagBits (b0 b1 b2 b3 b4 : Bool) : Byte :=
  BitVec.ofNat 8 (b0.toNat + 2 * b1.toNat + 4 * b2.toNat + 8 * b3.toNat + 16 * b4.toNat)

/-- A colour record in four bytes: bits 31..30 are 0, then R, G and B (R185). -/
def Colour.bytes (c : Colour) : List Byte := bytes4 (0#2 ++ c.r ++ c.g ++ c.b)

/-- A colour record from its four bytes; bits 31..30 are ignored (R185). -/
def Colour.ofBytes (a b c d : Byte) : Colour :=
  let w := ofBytes4 a b c d
  ⟨w.extractLsb' 20 10, w.extractLsb' 10 10, w.extractLsb' 0 10⟩

/-- The bytes of a list of records. -/
def recordBytes (cs : List Colour) : List Byte := cs.flatMap Colour.bytes

/-- The records in a list of bytes, when they fill it. -/
def readRecords : List Byte → Option (List Colour)
  | [] => some []
  | a :: b :: c :: d :: rest => (readRecords rest).map (Colour.ofBytes a b c d :: ·)
  | _ => none

/-- The two bytes of an edit id: proposer, then sequence (R185). -/
def EditId.bytes (id : EditId) : List Byte := [id.proposer, id.sequence]

/-! ### The frame check (R185) -/

/-- One bit through the 16-bit cyclic check with generator polynomial 1021h. -/
def checkBit (crc : Half) (b : Bool) : Half :=
  if crc.msb != b then (crc <<< 1) ^^^ 0x1021 else crc <<< 1

/-- One byte through the check, most significant bit first. -/
def checkByte (crc : Half) (x : Byte) : Half :=
  [7, 6, 5, 4, 3, 2, 1, 0].foldl (fun c i => checkBit c (x.getLsbD i)) crc

/-- The frame check over a list of bytes, with initial value FFFFh (R185). -/
def frameCheck (bytes : List Byte) : Half := bytes.foldl checkByte 0xFFFF

/-! ### Command frames (R172, R185) -/

/-- The code of a command (R185). -/
def Request.code : Request → Byte
  | .status => 0x01
  | .configure _ => 0x02
  | .join => 0x03
  | .leave => 0x04
  | .submitPalette .. => 0x10
  | .submitPan .. => 0x11
  | .submitLevel .. => 0x12
  | .submitBlank .. => 0x13
  | .readPeer _ => 0x20
  | .readEdit _ => 0x21
  | .readPalette _ => 0x22
  | .readEvent => 0x23
  | .reset => 0x30

/-- The codes that name a command. -/
def commandCodes : List Byte :=
  [0x01, 0x02, 0x03, 0x04, 0x10, 0x11, 0x12, 0x13, 0x20, 0x21, 0x22, 0x23, 0x30]

/-- The 22 parameter bytes of CONFIGURE. -/
def Geometry.bytes (g : Geometry) : List Byte :=
  g.station :: (bytes2 g.lineLength ++ bytes2 g.lines ++ bytes2 g.width ++ bytes2 g.height ++ bytes2 g.x0 ++ bytes2 g.y0
    ++ bytes2 g.canvasWidth ++ bytes2 g.canvasHeight ++ bytes3 g.base ++ bytes2 g.stride)

/-- The parameters of a command (R185). -/
def Request.params : Request → List Byte
  | .status | .join | .leave | .readEvent | .reset => []
  | .configure g => g.bytes
  | .submitPalette lead start count records => lead :: start :: (bytes2 count ++ recordBytes records)
  | .submitPan lead x y => lead :: (bytes2 x ++ bytes2 y)
  | .submitLevel lead value => [lead, value]
  | .submitBlank lead on => [lead, on]
  | .readPeer index | .readEdit index | .readPalette index => [index]

/-- A command frame: code, parameter length, parameters and frame check (R185). -/
def commandFrame (code : Byte) (params : List Byte) : List Byte :=
  let body := code :: (bytes2 (BitVec.ofNat 16 params.length) ++ params)
  body ++ bytes2 (frameCheck body)

/-- The frame that carries a command. -/
def Request.frame (r : Request) : List Byte := commandFrame r.code r.params

/-- The parameters of CONFIGURE, when there are 22 bytes. -/
def readGeometry : List Byte → Option Geometry
  | [st, l1, l0, n1, n0, w1, w0, h1, h0, x1, x0, y1, y0, u1, u0, v1, v0, b2, b1, b0, s1, s0] =>
    some { station := st, lineLength := ofBytes2 l1 l0, lines := ofBytes2 n1 n0, width := ofBytes2 w1 w0,
           height := ofBytes2 h1 h0, x0 := ofBytes2 x1 x0, y0 := ofBytes2 y1 y0, canvasWidth := ofBytes2 u1 u0,
           canvasHeight := ofBytes2 v1 v0, base := ofBytes3 b2 b1 b0, stride := ofBytes2 s1 s0 }
  | _ => none

/-- A command with no parameters. -/
def readNone (r : Request) (params : List Byte) : Option Request := if params = [] then some r else none

/-- A command with one parameter byte. -/
def readOne (r : Byte → Request) : List Byte → Option Request
  | [a] => some (r a)
  | _ => none

/-- A command with two parameter bytes. -/
def readTwo (r : Byte → Byte → Request) : List Byte → Option Request
  | [a, b] => some (r a b)
  | _ => none

/-- SUBMIT-PALETTE: 4 + 4 × n bytes for n records, n in 1..256 (R172). -/
def readSubmitPalette : List Byte → Option Request
  | lead :: start :: c1 :: c0 :: rest =>
    match readRecords rest with
    | some records =>
      if 1 ≤ records.length ∧ records.length ≤ 256 then some (.submitPalette lead start (ofBytes2 c1 c0) records) else none
    | none => none
  | _ => none

/-- SUBMIT-PAN: five bytes. -/
def readSubmitPan : List Byte → Option Request
  | [lead, x1, x0, y1, y0] => some (.submitPan lead (ofBytes2 x1 x0) (ofBytes2 y1 y0))
  | _ => none

/-- The command of a code and parameters: none when the code names no command or the parameter length is not the one
its layout requires (R172). -/
def readRequest (code : Byte) (params : List Byte) : Option Request :=
  if code = 0x01 then readNone .status params
  else if code = 0x02 then (readGeometry params).map .configure
  else if code = 0x03 then readNone .join params
  else if code = 0x04 then readNone .leave params
  else if code = 0x10 then readSubmitPalette params
  else if code = 0x11 then readSubmitPan params
  else if code = 0x12 then readTwo .submitLevel params
  else if code = 0x13 then readTwo .submitBlank params
  else if code = 0x20 then readOne .readPeer params
  else if code = 0x21 then readOne .readEdit params
  else if code = 0x22 then readOne .readPalette params
  else if code = 0x23 then readNone .readEvent params
  else if code = 0x30 then readNone .reset params
  else none

/-- R172: the command of a whole command frame, or none for a frame that fails the checks. -/
def readCommandFrame : List Byte → Option Request
  | code :: h :: l :: rest =>
    let len := (ofBytes2 h l).toNat
    if rest.length = len + 2 ∧ rest.drop len = bytes2 (frameCheck (code :: h :: l :: rest.take len)) then
      readRequest code (rest.take len)
    else none
  | _ => none

/-! ### Tile-bus messages (R161, R186) -/

/-- The kind of a message. -/
def Message.kind : Message → MsgKind
  | .take _ => .take
  | .drop .. => .drop
  | .outcome .. => .outcome
  | .beacon _ => .beacon
  | .accept _ => .accept
  | .refuse .. => .refuse
  | .propose .. => .propose
  | .query _ => .query
  | .farewell _ => .farewell
  | .dumpRequest _ => .dumpRequest
  | .dumpBegin .. => .dumpBegin
  | .dumpEnd .. => .dumpEnd
  | .data .. => .data
  | .dumpData .. => .dumpData

/-- The kind code (R186). -/
def MsgKind.code : MsgKind → Byte
  | .take => 0x01
  | .drop => 0x02
  | .outcome => 0x03
  | .beacon => 0x10
  | .accept => 0x20
  | .refuse => 0x21
  | .propose => 0x30
  | .query => 0x31
  | .farewell => 0x32
  | .dumpRequest => 0x40
  | .dumpBegin => 0x41
  | .dumpEnd => 0x42
  | .data => 0x50
  | .dumpData => 0x51

/-- Every kind, in the order of R186. -/
def MsgKind.all : List MsgKind :=
  [.take, .drop, .outcome, .beacon, .accept, .refuse, .propose, .query, .farewell, .dumpRequest, .dumpBegin, .dumpEnd,
   .data, .dumpData]

/-- The rank of a kind: its arbitration priority, the lower the stronger (R161). -/
def MsgKind.rank : MsgKind → Nat
  | .take | .drop | .outcome => 0
  | .beacon => 1
  | .accept | .refuse => 2
  | .propose | .query | .farewell => 3
  | .dumpRequest | .dumpBegin | .dumpEnd => 4
  | .data | .dumpData => 5

/-- The kind that a code names, if it names one. -/
def MsgKind.ofCode (c : Byte) : Option MsgKind := MsgKind.all.find? (fun k => k.code = c)

/-- The edit kind code and contents of a PROPOSE: the kind byte, and the bytes after the take frame. -/
def Target.bytes : Target → Byte × List Byte
  | .palette start count check => (0, start :: (bytes2 count ++ bytes2 check))
  | .pan x y => (1, bytes2 x ++ bytes2 y)
  | .level value => (2, [value])
  | .blank on => (3, [flagByte on])

/-- The payload of a message (R186). -/
def Message.payload : Message → List Byte
  | .take id | .accept id | .query id => id.bytes
  | .drop id reason | .refuse id reason => id.bytes ++ [reason]
  | .outcome id taken => id.bytes ++ [flagByte taken]
  | .beacon b => b.role :: (bytes4 b.frame ++ bytes2 b.version ++ [flagBits b.locked b.stampValid false false false]
      ++ bytes2 b.lineLength ++ bytes2 b.lines ++ bytes4 b.stampFrame ++ bytes4 b.stampPhase)
  | .propose id takeFrame target => id.bytes ++ (target.bytes.1 :: (bytes4 takeFrame ++ target.bytes.2))
  | .farewell station => [station]
  | .dumpRequest requester => [requester]
  | .dumpBegin requester h => requester :: (bytes4 h.frame ++ bytes2 h.version ++ bytes2 h.panX ++ bytes2 h.panY
      ++ [h.level, flagByte h.blank])
  | .dumpEnd requester torn check => requester :: flagByte torn :: bytes2 check
  | .data id fragment records => id.bytes ++ (fragment :: recordBytes records)
  | .dumpData requester fragment records => requester :: fragment :: recordBytes records

/-- The key byte: the rank in bits 7..5, the sender in bits 4..0 (R186). -/
def keyByte (rank : Nat) (sender : Station) : Byte := BitVec.ofNat 8 (32 * rank + sender.toNat % 32)

/-- A message as it is sent: key, kind, payload length, payload and frame check (R186). -/
def Message.bytes (sender : Station) (m : Message) : List Byte :=
  let body := keyByte m.kind.rank sender :: m.kind.code :: BitVec.ofNat 8 m.payload.length :: m.payload
  body ++ bytes2 (frameCheck body)

/-- The contents of a PROPOSE from the edit kind code and the bytes after the take frame (R186). -/
def readTarget (kind : Byte) (rest : List Byte) : Option Target :=
  match rest with
  | [start, c1, c0, k1, k0] => if kind = 0 then some (.palette start (ofBytes2 c1 c0) (ofBytes2 k1 k0)) else none
  | [x1, x0, y1, y0] => if kind = 1 then some (.pan (ofBytes2 x1 x0) (ofBytes2 y1 y0)) else none
  | [v] => if kind = 2 then some (.level v) else if kind = 3 then (ofFlagByte v).map .blank else none
  | _ => none

/-- The payload of a BEACON: 20 bytes. -/
def readBeacon : List Byte → Option Beacon
  | [role, f3, f2, f1, f0, v1, v0, flags, l1, l0, n1, n0, s3, s2, s1, s0, p3, p2, p1, p0] =>
    some { role := role, frame := ofBytes4 f3 f2 f1 f0, version := ofBytes2 v1 v0, locked := flags.getLsbD 0,
           lineLength := ofBytes2 l1 l0, lines := ofBytes2 n1 n0, stampFrame := ofBytes4 s3 s2 s1 s0,
           stampPhase := ofBytes4 p3 p2 p1 p0, stampValid := flags.getLsbD 1 }
  | _ => none

/-- One to five records (R161). -/
def readFragment (bytes : List Byte) : Option (List Colour) :=
  match readRecords bytes with
  | some records => if 1 ≤ records.length ∧ records.length ≤ 5 then some records else none
  | none => none

/-- The message of a kind and a payload: none when the payload length is not the kind's, or a code byte names no value
(R186). -/
def readPayload (kind : MsgKind) (payload : List Byte) : Option Message :=
  match kind, payload with
  | .take, [p, q] => some (.take ⟨p, q⟩)
  | .drop, [p, q, r] => some (.drop ⟨p, q⟩ r)
  | .outcome, [p, q, r] => (ofFlagByte r).map (.outcome ⟨p, q⟩)
  | .beacon, bytes => (readBeacon bytes).map .beacon
  | .accept, [p, q] => some (.accept ⟨p, q⟩)
  | .refuse, [p, q, r] => some (.refuse ⟨p, q⟩ r)
  | .propose, p :: q :: k :: t3 :: t2 :: t1 :: t0 :: rest =>
    (readTarget k rest).map (.propose ⟨p, q⟩ (ofBytes4 t3 t2 t1 t0))
  | .query, [p, q] => some (.query ⟨p, q⟩)
  | .farewell, [st] => some (.farewell st)
  | .dumpRequest, [st] => some (.dumpRequest st)
  | .dumpBegin, [st, f3, f2, f1, f0, v1, v0, x1, x0, y1, y0, level, blank] =>
    (ofFlagByte blank).map fun b =>
      .dumpBegin st ⟨ofBytes4 f3 f2 f1 f0, ofBytes2 v1 v0, ofBytes2 x1 x0, ofBytes2 y1 y0, level, b⟩
  | .dumpEnd, [st, torn, k1, k0] => (ofFlagByte torn).map fun t => .dumpEnd st t (ofBytes2 k1 k0)
  | .data, p :: q :: j :: rest => (readFragment rest).map (.data ⟨p, q⟩ j)
  | .dumpData, st :: j :: rest => (readFragment rest).map (.dumpData st j)
  | _, _ => none

/-- What a receiver makes of the bytes of a message (R147, R186). -/
inductive Reception where
  /-- Corrupt at this station: it signals an error (R147). -/
  | corrupt
  /-- Good, but it reaches no block (R186). -/
  | discarded
  /-- A message of a kind of R161, with its sender. -/
  | message (sender : Station) (m : Message)
  deriving DecidableEq, Repr

/-- What a receiver makes of the bytes of a message: the checks of R147 that bytes can show, then those of R186. -/
def readMessage : List Byte → Reception
  | key :: kind :: len :: rest =>
    if rest.length = len.toNat + 2 ∧ len.toNat ≤ 24
        ∧ rest.drop len.toNat = bytes2 (frameCheck (key :: kind :: len :: rest.take len.toNat)) then
      match MsgKind.ofCode kind with
      | none => .discarded
      | some k =>
        if key.toNat / 32 = k.rank then
          match readPayload k (rest.take len.toNat) with
          | some m => .message (BitVec.ofNat 8 (key.toNat % 32)) m
          | none => .discarded
        else .discarded
    else .corrupt
  | _ => .corrupt

/-- The arrival of a message from a sender, as the command that stands for it (R162). -/
def Message.arrival (sender : Station) : Message → Instr
  | .take id => .takeArrival sender id
  | .drop id reason => .dropArrival sender id reason
  | .outcome id taken => .outcomeArrival sender id taken
  | .beacon b => .beaconArrival sender b
  | .accept id => .acceptArrival sender id
  | .refuse id reason => .refuseArrival sender id reason
  | .propose id takeFrame target => .proposeArrival sender id takeFrame target
  | .query id => .queryArrival sender id
  | .farewell station => .farewellArrival sender station
  | .dumpRequest requester => .dumpRequestArrival sender requester
  | .dumpBegin requester header => .dumpBeginArrival sender requester header
  | .dumpEnd requester torn check => .dumpEndArrival sender requester torn check
  | .data id fragment records => .dataArrival sender id fragment records
  | .dumpData requester fragment records => .dumpDataArrival sender requester fragment records

/-- The command that the end of a reception of some bytes is, when no other station signals an error (R147, R162, R186). -/
def receptionCommand (bytes : List Byte) : Instr :=
  match readMessage bytes with
  | .corrupt => .corruptReception
  | .discarded => .messageDiscarded bytes
  | .message sender m => m.arrival sender

/-- The first of two byte strings is dominant before the second: at the first bit where they differ it has 0, the
dominant value (R146; log 12). -/
def dominates : List Byte → List Byte → Bool
  | a :: as, b :: bs => if a = b then dominates as bs else a.toNat < b.toNat
  | _, _ => false

/-- The read-back fault of R148: after the key, which is the first byte, some bit was sent dominant (0) and read recessive
(1). A bit that is not among those read back shows no fault (log 36). -/
def readBackFault (sent read : List Byte) : Bool := ((sent.zip read).drop 1).any fun x => ~~~x.1 &&& x.2 != 0

end Sys2Proof
end

