-- ==== Sys2Proof/Machine/State.lean ====
section
/-! DEFINITION. The state of the NZ-3140, block by block as the chapters own it, the reset state, and the reasons a step can
stop. Plain data throughout. -/

namespace Sys2Proof.Machine

open Sys2Proof

/-! ### Wall State (chapter 1) -/

/-- The wall state: R4. -/
structure WallState where
  palette : Vector Colour 256
  panX    : Half
  panY    : Half
  level   : Byte
  blank   : Bool
  version : Half
  valid   : Bool
  deriving DecidableEq, Repr

/-- The default palette entry at index i: R = G = B = 4 × i (R4). -/
def greyRamp (i : Nat) : Colour := ⟨BitVec.ofNat 10 (4 * i), BitVec.ofNat 10 (4 * i), BitVec.ofNat 10 (4 * i)⟩

/-- The default values, with state-valid clear (R4, R5). -/
def WallState.default : WallState :=
  { palette := tabulate 256 greyRamp, panX := 0, panY := 0, level := 255, blank := false, version := 0, valid := false }

/-! ### Owed messages (chapter 8) -/

/-- A message a source holds for the transmit scheduler: its kind and its void count (R145, R152). Its contents come from
the source (R154). -/
structure Owed where
  kind  : MsgKind
  voids : Nat
  deriving DecidableEq, Repr

/-! ### Edit Unit (chapters 2 and 3) -/

/-- The reasons that messages and events carry, in the order of their codes (R185's code table). -/
inductive Reason where
  | refused | deadline | conflict | superseded | renumbered | left | detached | droppedByProposer | check | late
  | noOutcome | noRoom | lead | transmit | receive | duplicate
  deriving DecidableEq, Repr

/-- How an entry is held (R19). -/
inductive Holding where
  | own | voter | observer
  deriving DecidableEq, Repr

/-- The seven states of an entry (R20). -/
inductive EditState where
  | sending | awaiting | collecting | accepted | complete | taken | inDoubt
  deriving DecidableEq, Repr

/-- An entry of the edit table (R19). The kind is the target's; the reservation is computed from it. A set of station or
fragment numbers is kept as a rising list without repeats (log 24). -/
structure EditEntry where
  id            : EditId
  takeFrame     : FrameNo
  target        : Target
  staged        : List (Option Colour)
  received      : Option (List Nat)
  holding       : Holding
  state         : EditState
  proposed      : Option Bool
  voters        : Option (List Station)
  pendingVoters : Option (List Station)
  cursor        : Option Nat
  queryTries    : Option Nat
  queryWait     : Option Nat
  late          : Bool
  deferred      : Bool
  owed          : Option Owed
  deriving DecidableEq, Repr

/-- An entry of the refusal list (R25), with the void count of the REFUSE it owes as head. -/
structure RefusalEntry where
  id     : EditId
  reason : Reason
  voids  : Nat
  deriving DecidableEq, Repr

/-- An entry of the outcome list (R26): the result, the drop reason a DROP carries, and the owed DROP or OUTCOME. -/
structure OutcomeEntry where
  id     : EditId
  taken  : Bool
  reason : Option Reason
  owed   : Option Owed
  deriving DecidableEq, Repr

/-- The Edit Unit. The staging pool's records are the entries' staged records (R23). -/
structure EditUnit where
  table    : Vector (Option EditEntry) 16
  refusals : List RefusalEntry
  outcomes : List OutcomeEntry
  sequence : Byte
  deriving DecidableEq, Repr

/-- The Edit Unit after any reset (R43). -/
def EditUnit.reset : EditUnit :=
  { table := tabulate 16 fun _ => none, refusals := [], outcomes := [], sequence := 0 }

/-! ### Roles and times -/

/-- The six roles (R114), in the order of their codes. -/
inductive Role where
  | offline | listen | align | member | leaving | detached
  deriving DecidableEq, Repr

/-- A time: a frame number and a phase (00_scope). In a lengthened frame the phase can reach P or more (R81). -/
structure Time where
  frame : FrameNo
  phase : Nat
  deriving DecidableEq, Repr

/-! ### Peer Table (chapter 4) -/

/-- The state of a peer entry (R71). -/
inductive PeerState where
  | absent | heard | live | silent | incompatible
  deriving DecidableEq, Repr

/-- The four reported fields, from the last beacon (R71). -/
structure Reported where
  role    : Role
  locked  : Bool
  version : Half
  frame   : FrameNo
  deriving DecidableEq, Repr

/-- A capture: the sender's frame field and the own receive time of the last beacon held (R71, R82). -/
structure Capture where
  senderFrame : FrameNo
  own         : Time
  valid       : Bool
  deriving DecidableEq, Repr

/-- The value of an offset, in pixel clocks, or its far mark (R83). -/
inductive OffsetValue where
  | value (clocks : Int)
  | farAhead
  | farBehind
  deriving DecidableEq, Repr

/-- An offset record, with the two times it was formed from and its fresh flag (R71, R83). -/
structure Offset where
  value : OffsetValue
  own   : Time
  peer  : Time
  fresh : Bool
  deriving DecidableEq, Repr

/-- A version verdict (R71, R85). -/
inductive Verdict where
  | none | agree | differ
  deriving DecidableEq, Repr

/-- An entry of the Peer Table (R71). -/
structure Peer where
  state    : PeerState
  seen     : Bool
  misses   : Nat
  reported : Option Reported
  capture  : Capture
  offset   : Option Offset
  verdict  : Verdict
  deriving DecidableEq, Repr

/-- A cleared entry that keeps a capture's pair: clearing takes the valid flag and leaves the pair (R72, R82; log 10). -/
def Peer.cleared (c : Capture) : Peer :=
  { state := .absent, seen := false, misses := 0, reported := none, capture := { c with valid := false },
    offset := none, verdict := .none }

/-- The capture of an entry that has held none (log 9). -/
def Capture.empty : Capture := ⟨0, ⟨0, 0⟩, false⟩

/-! ### Frame Timer (chapter 5) -/

/-- The lock status (R89). -/
inductive Lock where
  | free | settling | locked
  deriving DecidableEq, Repr

/-- The Frame Timer (R89). The frame layout is computed from the correction (R91). -/
structure Timer where
  running    : Bool
  line       : Nat
  pixel      : Nat
  frame      : FrameNo
  correction : Int
  trim       : BitVec 10
  lock       : Lock
  lockCount  : Nat
  advance    : Option FrameNo
  deriving DecidableEq, Repr

/-- The Frame Timer after a power-on reset (R89). -/
def Timer.reset : Timer :=
  { running := false, line := 0, pixel := 0, frame := 0, correction := 0, trim := 512, lock := .free, lockCount := 0,
    advance := none }

/-! ### Role Controller (chapter 6) -/

/-- The split latch (R114). -/
inductive SplitLatch where
  | armed | fired
  deriving DecidableEq, Repr

/-- The Role Controller (R114), with the FAREWELL it owes (R127). -/
structure RoleControl where
  role         : Role
  foundingWait : Nat
  stale        : Bool
  strikes      : Nat
  ties         : Nat
  split        : SplitLatch
  farewell     : Option Owed
  deriving DecidableEq, Repr

/-- The Role Controller after any reset (R114). -/
def RoleControl.reset : RoleControl :=
  { role := .offline, foundingWait := 0, stale := false, strikes := 0, ties := 0, split := .armed, farewell := none }

/-! ### Catch-Up Unit (chapter 7) -/

/-- The state of the requester context (R131). -/
inductive RequesterState where
  | idle | asking | receiving | applyPending | retryWait
  deriving DecidableEq, Repr

/-- The requester context (R131). -/
structure Requester where
  state       : RequesterState
  tries       : Nat
  askWait     : Option Nat
  responder   : Option Station
  header      : Option Header
  received    : List Nat
  receiveWait : Option Nat
  retryWait   : Option Nat
  missed      : Bool
  owed        : Option Owed
  deriving DecidableEq, Repr

/-- The requester context after any reset (R131). -/
def Requester.reset : Requester :=
  { state := .idle, tries := 0, askWait := none, responder := none, header := none, received := [], receiveWait := none,
    retryWait := none, missed := false, owed := none }

/-- The state of the responder context (R131). -/
inductive ResponderState where
  | idle | offering | sending
  deriving DecidableEq, Repr

/-- The responder context (R131). `windowOpen` is the torn window of R143; `endAfterBegin` says that the station left
MEMBER while its DUMP-BEGIN was in an attempt (R144). -/
structure Responder where
  state         : ResponderState
  requester     : Option Station
  cursor        : Nat
  torn          : Bool
  owed          : Option Owed
  windowOpen    : Bool
  endAfterBegin : Bool
  deriving DecidableEq, Repr

/-- The responder context after any reset (R131). -/
def Responder.reset : Responder :=
  { state := .idle, requester := none, cursor := 0, torn := false, owed := none, windowOpen := false,
    endAfterBegin := false }

/-- The dump buffer, every entry without standing (R131). -/
def emptyBuffer : Vector (Option Colour) 256 := tabulate 256 fun _ => none

/-- The Catch-Up Unit (R131). -/
structure CatchUp where
  req    : Requester
  resp   : Responder
  buffer : Vector (Option Colour) 256
  deriving DecidableEq, Repr

/-- The Catch-Up Unit after any reset (R131). -/
def CatchUp.reset : CatchUp := ⟨Requester.reset, Responder.reset, emptyBuffer⟩

/-! ### Bus Interface (chapter 8) -/

/-- The sources of the transmit scheduler (R152). -/
inductive Source where
  | beacon
  | farewell
  | refusal
  | entry (index : Nat)
  | outcome (id : EditId)
  | requester
  | responder
  deriving DecidableEq, Repr

/-- A transmitted attempt in flight (R145): source, message, attempt number 1..4; for a beacon its candidate start time
and whether that is usable (R160); and whether the source has withdrawn the message since (R155). -/
structure Transmission where
  source    : Source
  message   : Message
  number    : Nat
  start     : Time
  usable    : Bool
  withdrawn : Bool
  deriving DecidableEq, Repr

/-- The attempt in flight (R145). -/
inductive Attempt where
  | transmitting (t : Transmission)
  /-- A received attempt: the receive time and whether it is usable (R81). -/
  | receiving (time : Time) (usable : Bool)
  deriving DecidableEq, Repr

/-- What the station drives in the acknowledgment window of a message (R147, R148). -/
inductive WindowDrive where
  | nothing | acknowledgment | error
  deriving DecidableEq, Repr

/-- The Bus Interface (R145, R147, R151, R158, R160). `gapSeen`: an idle gap has been observed since the entry to LISTEN.
`driven`: what the station drove in the window of the last message it sent or received (log 35). -/
structure Bus where
  attempt       : Option Attempt
  abandonStreak : Nat
  corruptStreak : Nat
  beaconStart   : Time
  startValid    : Bool
  beacon        : Option Owed
  renewal       : Bool
  gapSeen       : Bool
  driven        : WindowDrive
  deriving DecidableEq, Repr

/-- The Bus Interface after any reset (R145; the start time, not valid, is log 9's). -/
def Bus.reset : Bus :=
  { attempt := none, abandonStreak := 0, corruptStreak := 0, beaconStart := ⟨0, 0⟩, startValid := false, beacon := none,
    renewal := false, gapSeen := false, driven := .nothing }

/-! ### Pixel Path (chapter 9) -/

/-- A line buffer (R163): the active line it holds indices for, the pan of its fetch, and its slots. -/
structure LineBuffer where
  line  : Option Nat
  panX  : Half
  panY  : Half
  slots : List (Option Byte)
  deriving DecidableEq, Repr

/-- Which of the two line buffers. -/
inductive BufferName where
  | a | b
  deriving DecidableEq, Repr

/-- The fetch in progress (R163). -/
structure Fetch where
  buffer   : BufferName
  issued   : Nat
  answered : Nat
  deriving DecidableEq, Repr

/-- The latched copy (R13, R163). -/
structure Latched where
  palette : Vector Colour 256
  panX    : Half
  panY    : Half
  level   : Byte
  blank   : Bool
  showing : Bool
  deriving DecidableEq, Repr

/-- The Pixel Path (R163), the answers still due for fetches cut or given up (R164), what the panel and the memory port show
(R169, 9.4), and what has been done at the position of the scan: `issuedHere`, the fetch due there is issued; `requestedHere`, its
clock's read request is out; `scannedHere`, its pixel is output (log 37). -/
structure PixelPath where
  bufferA  : LineBuffer
  bufferB  : LineBuffer
  fetch    : Option Fetch
  queued   : Option BufferName
  latched  : Latched
  underrun : Bool
  givenUp  : Nat
  rgb      : Colour
  request  : Option (BitVec 24)
  issuedHere    : Bool
  requestedHere : Bool
  scannedHere   : Bool
  deriving DecidableEq, Repr

/-- A buffer that holds no line (R163; the pan is log 9's). -/
def LineBuffer.empty : LineBuffer := ⟨none, 0, 0, []⟩

/-- The Pixel Path after a reset at which `due` answers are outstanding (R163, R5). -/
def PixelPath.reset (due : Nat) : PixelPath :=
  { bufferA := LineBuffer.empty, bufferB := LineBuffer.empty, fetch := none, queued := none,
    latched := { palette := WallState.default.palette, panX := 0, panY := 0, level := 255, blank := false, showing := false },
    underrun := false, givenUp := due, rgb := Colour.black, request := none,
    issuedHere := false, requestedHere := false, scannedHere := false }

/-! ### Control Port (chapter 10) -/

/-- The configuration record (R174). -/
structure ConfigRecord where
  station      : Station
  lineLength   : Half
  lines        : Half
  width        : Half
  height       : Half
  x0           : Half
  y0           : Half
  canvasWidth  : Half
  canvasHeight : Half
  base         : BitVec 24
  stride       : Half
  valid        : Bool
  frozen       : Bool
  deriving DecidableEq, Repr

/-- The record after a power-on reset (R174). -/
def ConfigRecord.reset : ConfigRecord :=
  { station := 0, lineLength := 0, lines := 0, width := 0, height := 0, x0 := 0, y0 := 0, canvasWidth := 0,
    canvasHeight := 0, base := 0, stride := 0, valid := false, frozen := false }

/-- The phases of a transaction (R170); `held`: select is still asserted from before a power-on reset (R171). -/
inductive PortPhase where
  | idle | command | response | held
  deriving DecidableEq, Repr

/-- The reasons of a REFUSED response (R173), in the order of their codes. -/
inductive ResponseReason where
  | frozen | state | invalid | notMember | full | noRoom | conflict
  deriving DecidableEq, Repr

/-- A response (R173): code, reason when refused, and payload bytes (R185). -/
structure Response where
  code    : ResponseCode
  reason  : Option ResponseReason
  payload : List Byte
  deriving DecidableEq, Repr

/-- The Control Port's transaction (R170) and the response composed at the last completion (log 8). -/
structure Port where
  phase    : PortPhase
  response : Option Response
  deriving DecidableEq, Repr

/-- The nineteen event kinds (R181), in the order of their codes. -/
inductive EventKind where
  | peerLive | peerSilent | peerIncompatible | peerLeft | roleChanged | locked | lockLost | renumbered | trimLimit
  | editTaken | editDropped | takeLate | stale | versionSplit | dumpDone | dumpFailed | txAbandoned | detached
  | pixelUnderrun
  deriving DecidableEq, Repr

/-- An entry of the event queue (R181). -/
structure Event where
  kind    : EventKind
  frame   : FrameNo
  station : Option Station
  id      : Option EditId
  reason  : Option Reason
  role    : Option Role
  overrun : Bool
  deriving DecidableEq, Repr

/-! ### The whole part -/

/-- The state of the part, with the queue of waiting commands and the model's counter of free choices (log 4). -/
structure State where
  wall      : WallState
  edit      : EditUnit
  peers     : Vector Peer 32
  timer     : Timer
  ctl       : RoleControl
  catchUp   : CatchUp
  bus       : Bus
  pixel     : PixelPath
  cfg       : ConfigRecord
  port      : Port
  events    : List Event
  pending   : List Instr
  freeCount : Nat
  deriving DecidableEq, Repr

/-- The part after a power-on reset, with no command waiting. -/
def State.reset : State :=
  { wall := WallState.default, edit := EditUnit.reset, peers := tabulate 32 fun _ => Peer.cleared Capture.empty,
    timer := Timer.reset, ctl := RoleControl.reset, catchUp := CatchUp.reset, bus := Bus.reset, pixel := PixelPath.reset 0,
    cfg := ConfigRecord.reset, port := ⟨.idle, none⟩, events := [], pending := [], freeCount := 0 }

/-- The reasons a step can stop with a fault: none. No rule of the spec stops the part. -/
inductive Fault where
  deriving DecidableEq, Repr

/-- The reasons a step can be refused. -/
inductive Refusal where
  /-- A command without a meaning, by its mnemonic; raised by an arm of exec. Safe. No arm raises it. -/
  | notModelled (mnemonic : String)
  deriving DecidableEq, Repr

end Sys2Proof.Machine
end

