-- ==== Sys2Proof/Machine/Operands.lean ====
section
/-! DEFINITION. The arithmetic of the manual's conventions and of the operands: frame numbers and times (R1, R2), check values
(R3), edits and their conflicts (R16, R17), fragments, ranges of the record (R174), geometry (R91, R92), sets. -/

namespace Sys2Proof

/-! ### Edits -/

/-- The edit kind's code (R185). -/
def Target.code (t : Target) : Byte := t.bytes.1

/-- The contents lie within the ranges of R16: for PALETTE, count 1..256 and start + count ≤ 256. -/
def Target.inRange : Target → Bool
  | .palette start count _ => 1 ≤ count.toNat && start.toNat + count.toNat ≤ 256
  | .pan .. | .level _ | .blank _ => true

/-- The records a target reserves in the staging pool: count for PALETTE, else 0 (R19, R23). -/
def Target.reservation : Target → Nat
  | .palette _ count _ => count.toNat
  | .pan .. | .level _ | .blank _ => 0

/-- The number of fragments of a PALETTE edit of `count` records (R16). -/
def fragmentCount (count : Nat) : Nat := (count + 4) / 5

/-- The number of fragments of an entry's target. -/
def Target.fragments : Target → Nat
  | .palette _ count _ => fragmentCount count.toNat
  | .pan .. | .level _ | .blank _ => 0

/-- Whether a target is a PALETTE edit's. -/
def Target.isPalette : Target → Bool
  | .palette .. => true
  | .pan .. | .level _ | .blank _ => false

/-- Two edits conflict when they would write the same item (R17). -/
def Target.conflicts : Target → Target → Bool
  | .palette s c _, .palette s' c' _ =>
    s.toNat < s'.toNat + c'.toNat && s'.toNat < s.toNat + c.toNat
  | .pan .., .pan .. => true
  | .level _, .level _ => true
  | .blank _, .blank _ => true
  | _, _ => false

/-- Edit-id order: proposer first, sequence second (00_scope). -/
def EditId.before (a b : EditId) : Bool :=
  a.proposer.toNat < b.proposer.toNat || (a.proposer = b.proposer && a.sequence.toNat < b.sequence.toNat)

/-- Every value of a CONFIGURE lies within its range, W and H tested against the carried L and N (R174, R175). -/
def Geometry.inRange (g : Geometry) : Bool :=
  g.station.toNat ≤ 31
  && 128 ≤ g.lineLength.toNat && g.lineLength.toNat ≤ 8191
  && 16 ≤ g.lines.toNat && g.lines.toNat ≤ 4095
  && 16 ≤ g.width.toNat && g.width.toNat + 16 ≤ g.lineLength.toNat
  && 8 ≤ g.height.toNat && g.height.toNat + 2 ≤ g.lines.toNat
  && 1 ≤ g.canvasWidth.toNat && 1 ≤ g.canvasHeight.toNat && 1 ≤ g.stride.toNat

end Sys2Proof

namespace Sys2Proof.Machine

open Sys2Proof

/-! ### Frame numbers and times -/

/-- The signed frame difference a − b (R1). -/
def frameDiff (a b : FrameNo) : Int := (a - b).toInt

/-- Frame a is later than frame b (R1). -/
def laterThan (a b : FrameNo) : Bool := 0 < frameDiff a b

/-- The difference of two times is far from 2^20 frames on (R2). -/
def farFrames : Int := 1048576

/-! ### Sets, as rising lists without repeats (log 24) -/

/-- A number joins a rising list. -/
def insertNat (x : Nat) : List Nat → List Nat
  | [] => [x]
  | y :: ys => if x < y then x :: y :: ys else if x = y then y :: ys else y :: insertNat x ys

/-- Every number 0..k − 1 is in the list. -/
def holdsAll (k : Nat) (xs : List Nat) : Bool := (List.range k).all (fun j => xs.contains j)

/-! ### Colours, check values and fragments -/

/-- The term of one palette entry in a check value (R3). -/
def checkTerm (index : Nat) (c : Colour) : Nat := 7 * index + c.r.toNat + 3 * c.g.toNat + 5 * c.b.toNat

/-- The sum of the terms of colours held at successive palette indices. -/
def checkSum : Nat → List Colour → Nat
  | _, [] => 0
  | i, c :: cs => checkTerm i c + checkSum (i + 1) cs

/-- The check value of colours taken as palette entries at indices start, start + 1, … (R3). -/
def checkValue (start : Nat) (cs : List Colour) : Half := BitVec.ofNat 16 (checkSum start cs % 65536)

/-- A record that is read; one without content is never read in a run (R24, R131; log 22). -/
def recordOr (c : Option Colour) : Colour := c.getD Colour.black

/-- The number of records that fragment j of `count` records carries (R16). -/
def fragmentSize (count j : Nat) : Nat := min 5 (count - 5 * j)

/-- The records of fragment j (R16): records 5j onward, at most five. -/
def fragmentOf {α : Type} (records : List α) (j : Nat) : List α := (records.drop (5 * j)).take 5

/-- The list with the given values written from position `at` onward. -/
def writeFrom {α : Type} (xs : List α) (pos : Nat) (ys : List α) : List α :=
  match ys with
  | [] => xs
  | y :: rest => writeFrom (xs.set pos y) (pos + 1) rest

/-! ### Orders -/

/-- A list with an element put in by an order: before the first element it comes before. -/
def insertBy {α : Type} (before : α → α → Bool) (x : α) : List α → List α
  | [] => [x]
  | y :: ys => if before x y then x :: y :: ys else y :: insertBy before x ys

/-- A list put in order, elements that are equal in the order keeping their places. -/
def sortBy {α : Type} (before : α → α → Bool) (xs : List α) : List α :=
  xs.foldr (insertBy before) []

/-! ### Codes (R185) -/

/-- The code of a message or event reason. -/
def Reason.code : Reason → Byte
  | .refused => 1 | .deadline => 2 | .conflict => 3 | .superseded => 4 | .renumbered => 5 | .left => 6 | .detached => 7
  | .droppedByProposer => 8 | .check => 9 | .late => 10 | .noOutcome => 11 | .noRoom => 12 | .lead => 13
  | .transmit => 14 | .receive => 15 | .duplicate => 16

/-- The code of a role. -/
def Role.code : Role → Byte
  | .offline => 0 | .listen => 1 | .align => 2 | .member => 3 | .leaving => 4 | .detached => 5

/-- The role that a beacon's role field names, when it is one a beacon may carry (R74). -/
def Role.ofBeacon (b : Byte) : Option Role :=
  if b = 2 then some .align else if b = 3 then some .member else if b = 4 then some .leaving else none

/-- A station in the role receives (R145). -/
def Role.receives : Role → Bool
  | .listen | .align | .member | .leaving => true
  | .offline | .detached => false

/-- A station in the role begins attempts (R115, R145). -/
def Role.transmits : Role → Bool
  | .align | .member | .leaving => true
  | .offline | .listen | .detached => false

/-! ### The record and the geometry -/

/-- L, the line length. -/
def ConfigRecord.l (c : ConfigRecord) : Nat := c.lineLength.toNat
/-- N, the lines per frame. -/
def ConfigRecord.n (c : ConfigRecord) : Nat := c.lines.toNat
/-- W, the active width. -/
def ConfigRecord.w (c : ConfigRecord) : Nat := c.width.toNat
/-- H, the active height. -/
def ConfigRecord.h (c : ConfigRecord) : Nat := c.height.toNat
/-- P, the clocks in an uncorrected frame (00_scope). -/
def ConfigRecord.p (c : ConfigRecord) : Nat := c.l * c.n

/-- The shortening limit (N − H − 1) × L (R92). -/
def ConfigRecord.shorteningLimit (c : ConfigRecord) : Int := ((c.n : Int) - c.h - 1) * c.l

/-- A value brought within two limits by clamping. -/
def clamp (lo hi x : Int) : Int := max lo (min hi x)

/-- T, the clocks of the current frame (R91). -/
def frameClocks (c : ConfigRecord) (t : Timer) : Nat := ((c.p : Int) + t.correction).toNat

/-- M, the lines of the current frame: T / L rounded up (R91). -/
def frameLines (c : ConfigRecord) (t : Timer) : Nat := (frameClocks c t + (c.l - 1)) / c.l

/-- The length of a line of the current frame: L, and for the last line what is left (R91). -/
def lineClocks (c : ConfigRecord) (t : Timer) (line : Nat) : Nat :=
  if line + 1 = frameLines c t then frameClocks c t - line * c.l else c.l

/-- The own time (R91, R113): (0, 0) while the timer is stopped (R90). -/
def ownTime (c : ConfigRecord) (t : Timer) : Time := ⟨t.frame, t.line * c.l + t.pixel⟩

/-- A pixel is active: line below H and pixel below W (R91). -/
def activePixel (c : ConfigRecord) (line pixel : Nat) : Bool := line < c.h && pixel < c.w

/-- The address of the read request for pixel x of line y under a pan (R165). -/
def readAddress (c : ConfigRecord) (panX panY : Half) (x y : Nat) : BitVec 24 :=
  let row := (c.y0.toNat + panY.toNat + y) % c.canvasHeight.toNat
  let column := (c.x0.toNat + panX.toNat + x) % c.canvasWidth.toNat
  BitVec.ofNat 24 (c.base.toNat + row * c.stride.toNat + column)

/-- A component scaled by the level: component × (level + 1) / 256, truncated (R15). -/
def scaleComponent (level : Byte) (x : BitVec 10) : BitVec 10 := BitVec.ofNat 10 (x.toNat * (level.toNat + 1) / 256)

/-- The output colour of an index under a latched copy whose show decision is true (R15). -/
def outputColour (lat : Latched) (index : Byte) : Colour :=
  if lat.blank then Colour.black
  else
    let c := lat.palette[index.toNat]?.getD Colour.black
    ⟨scaleComponent lat.level c.r, scaleComponent lat.level c.g, scaleComponent lat.level c.b⟩

end Sys2Proof.Machine
end

