-- ==== Sys2Proof/Machine/Ops.lean ====
section
/-! DEFINITION. The named operations over the state: the event queue, the sources of owed messages, the positions of the edit
table, the refusal and outcome lists, the Peer Table's entries. -/

namespace Sys2Proof.Machine

open Sys2Proof

/-! ### The event queue (R181, R182) -/

/-- The queue with the overrun mark of its tail set. -/
def markTail : List Event → List Event
  | [] => []
  | [e] => [{ e with overrun := true }]
  | e :: rest => e :: markTail rest

/-- An event joins at the tail, or is discarded with the tail marked when the queue holds 32 entries (R182). -/
def joinQueue (q : List Event) (e : Event) : List Event := if q.length < 32 then q ++ [e] else markTail q

/-- A block posts an event, which carries the own frame (R181). -/
def State.post (s : State) (kind : EventKind) (station : Option Station := none) (id : Option EditId := none)
    (reason : Option Reason := none) (role : Option Role := none) : State :=
  { s with events := joinQueue s.events ⟨kind, s.timer.frame, station, id, reason, role, false⟩ }

/-! ### What the blocks read of each other -/

/-- The own station number. -/
def State.own (s : State) : Station := s.cfg.station

/-- The own frame. -/
def State.frame (s : State) : FrameNo := s.timer.frame

/-- The own time. -/
def State.time (s : State) : Time := ownTime s.cfg s.timer

/-- The station is catching up (R131). -/
def State.catchingUp (s : State) : Bool := s.catchUp.req.state != .idle

/-- The missed flag is set if the station is catching up (R29, R60, R61, R69). -/
def State.noteMissed (s : State) : State :=
  if s.catchingUp then { s with catchUp := { s.catchUp with req := { s.catchUp.req with missed := true } } } else s

/-! ### Withdrawal of a message whose attempt is in flight (R155) -/

/-- The attempt in flight is marked withdrawn when it is the source's. -/
def Bus.withdraw (b : Bus) (src : Source) : Bus :=
  match b.attempt with
  | some (.transmitting t) =>
    if t.source = src then { b with attempt := some (.transmitting { t with withdrawn := true }) } else b
  | _ => b

/-- A source withdraws what it has in an attempt. -/
def State.withdraw (s : State) (src : Source) : State := { s with bus := s.bus.withdraw src }

/-- The source's message is in an attempt. -/
def State.inAttempt (s : State) (src : Source) : Bool :=
  match s.bus.attempt with
  | some (.transmitting t) => t.source = src && !t.withdrawn
  | _ => false

/-! ### The edit table (R18) -/

/-- The entry at an index. -/
def State.entryAt (s : State) (i : Nat) : Option EditEntry := s.edit.table[i]?.join

/-- An index takes an entry or none. -/
def State.putEntry (s : State) (i : Nat) (e : Option EditEntry) : State :=
  { s with edit := { s.edit with table := s.edit.table.setIfInBounds i e } }

/-- The present entries with their indices, in index order. -/
def State.entries (s : State) : List (Nat × EditEntry) :=
  (List.range 16).filterMap fun i => (s.entryAt i).map fun e => (i, e)

/-- The work is done on each present entry in index order, each seeing the state the one before left. -/
def State.forEntries (f : Nat → EditEntry → State → State) (s : State) : State :=
  (List.range 16).foldl (fun s i => match s.entryAt i with | some e => f i e s | none => s) s

/-- The index and entry that hold an edit id. -/
def State.findEntry (s : State) (id : EditId) : Option (Nat × EditEntry) :=
  s.entries.find? fun x => x.2.id = id

/-- The lowest index that holds none (R18). -/
def State.freeIndex (s : State) : Option Nat := (List.range 16).find? fun i => (s.entryAt i).isNone

/-- The staging pool's free count: 1024 minus the reservations held (R23). -/
def State.poolFree (s : State) : Nat := 1024 - (s.entries.map fun x => x.2.target.reservation).sum

/-- The number of entries held as OWN (R21). -/
def State.ownCount (s : State) : Nat := (s.entries.filter fun x => x.2.holding = .own).length

/-- The target conflicts with an entry held (R32, R44). -/
def State.conflictHeld (s : State) (t : Target) : Bool := s.entries.any fun x => x.2.target.conflicts t

/-- An entry takes a new state: what it owed is withdrawn, and it owes what the new state names (R22). -/
def State.enter (s : State) (i : Nat) (e : EditEntry) (owes : Option MsgKind) : State :=
  (s.withdraw (.entry i)).putEntry i (some { e with owed := owes.map fun k => ⟨k, 0⟩ })

/-- An entry is removed: its owed message is withdrawn, its reservation released, its index left empty (R39). -/
def State.removeEntry (s : State) (i : Nat) : State := (s.withdraw (.entry i)).putEntry i none

/-- An entry is removed and EDIT-DROPPED is posted for it (R39). -/
def State.dropEntry (s : State) (i : Nat) (e : EditEntry) (reason : Reason) (station : Option Station := none) : State :=
  (s.removeEntry i).post .editDropped station (some e.id) (some reason)

/-! ### The refusal list (R25) -/

/-- The station refuses a proposal: the refusal joins at the tail, unless the list is full or holds the id (R25). -/
def State.refuse (s : State) (id : EditId) (reason : Reason) : State :=
  if s.edit.refusals.length < 4 ∧ s.edit.refusals.all (fun r => r.id != id) then
    { s with edit := { s.edit with refusals := s.edit.refusals ++ [⟨id, reason, 0⟩] } }
  else s

/-- The refusal list is emptied, its head's REFUSE withdrawn (R25). -/
def State.emptyRefusals (s : State) : State :=
  { s.withdraw .refusal with edit := { s.edit with refusals := [] } }

/-! ### The outcome list (R26) -/

/-- The list after an outcome is recorded: no other entry with its id, the new one at the tail, at most 8 entries. -/
def joinOutcomes (q : List OutcomeEntry) (o : OutcomeEntry) : List OutcomeEntry :=
  let q := q.filter (fun x => x.id != o.id) ++ [o]
  q.drop (q.length - 8)

/-- An outcome is recorded; a removed entry's message is withdrawn (R26). -/
def State.recordOutcome (s : State) (o : OutcomeEntry) : State :=
  let q := joinOutcomes s.edit.outcomes o
  let gone := s.edit.outcomes.filter fun x => x.id = o.id || !(q.any fun y => y.id = x.id)
  gone.foldl (fun s x => s.withdraw (.outcome x.id)) { s with edit := { s.edit with outcomes := q } }

/-- The outcome entry with an id. -/
def State.findOutcome (s : State) (id : EditId) : Option OutcomeEntry := s.edit.outcomes.find? fun o => o.id = id

/-- The outcome entry with an id changes. -/
def State.setOutcome (s : State) (id : EditId) (f : OutcomeEntry → OutcomeEntry) : State :=
  { s with edit := { s.edit with outcomes := s.edit.outcomes.map fun o => if o.id = id then f o else o } }

/-! ### The Peer Table (R71) -/

/-- The entry of a station number; the own index holds none (R71). -/
def State.peerAt (s : State) (n : Nat) : Option Peer := if n = s.own.toNat then none else s.peers[n]?

/-- The entry of a station number changes; the own index never does (R71). -/
def State.putPeer (s : State) (n : Nat) (p : Peer) : State :=
  if n = s.own.toNat then s else { s with peers := s.peers.setIfInBounds n p }

/-- The entries that exist, with their station numbers, lowest first. -/
def State.peerList (s : State) : List (Nat × Peer) :=
  (List.range 32).filterMap fun n => (s.peerAt n).map fun p => (n, p)

/-- Every entry changes by a function of the entry alone. -/
def State.mapPeers (s : State) (f : Peer → Peer) : State := { s with peers := mapTable f s.peers }

/-- The reported role of an entry. -/
def Peer.reportedRole (p : Peer) : Option Role := p.reported.map (·.role)

/-- A LIVE entry whose reported role is MEMBER. -/
def Peer.liveMember (p : Peer) : Bool := p.state = .live && p.reportedRole = some .member

/-- The station numbers of the LIVE entries whose reported role is MEMBER (R46, R87). -/
def State.liveMembers (s : State) : List Station :=
  (s.peerList.filter fun x => x.2.liveMember).map fun x => BitVec.ofNat 8 x.1

/-- The number of LIVE entries (R177). -/
def State.liveCount (s : State) : Nat := (s.peerList.filter fun x => x.2.state = .live).length

/-- A cleared entry in place of another, whose capture's pair stays (R72, R82). -/
def Peer.clear (p : Peer) : Peer := Peer.cleared p.capture

end Sys2Proof.Machine
end

