-- ==== Sys2Proof/Machine/EditUnit.lean ====
section
/-! DEFINITION. The Edit Unit (chapters 2 and 3): submission, decisions, admission, arrivals, deadlines, application, deferral
and removal of edit-table entries. -/

namespace Sys2Proof.Machine

open Sys2Proof

/-! ### The proposer's decisions -/

/-- t − f: the frames from the own frame to an entry's take frame. -/
def State.leadOf (s : State) (e : EditEntry) : Int := frameDiff e.takeFrame s.frame

/-- R52: the proposer decides to take an AWAITING own entry whose pending-voter set is empty with t − f at least 3. -/
def State.tryTake (s : State) (i : Nat) : State :=
  match s.entryAt i with
  | some e =>
    if e.holding = .own ∧ e.state = .awaiting ∧ e.pendingVoters = some [] ∧ 3 ≤ s.leadOf e then
      (s.enter i { e with state := .taken, late := false } (some .take)).recordOutcome ⟨e.id, true, none, none⟩
    else s
  | none => s

/-- R54: a decision to drop an own entry: the outcome, owing DROP when the entry was proposed; the removal; the event. -/
def State.decideDrop (s : State) (i : Nat) (e : EditEntry) (reason : Reason) (station : Option Station := none) : State :=
  (s.recordOutcome ⟨e.id, false, some reason, if e.proposed = some true then some ⟨.drop, 0⟩ else none⟩).dropEntry i e
    reason station

/-- The entry is undecided: SENDING or AWAITING. -/
def EditEntry.undecided (e : EditEntry) : Bool := e.state = .sending || e.state = .awaiting

/-- R51: a lost peer leaves the voter sets of an own entry, which may decide a take. -/
def loseVoterAt (st : Station) (i : Nat) (e : EditEntry) (s : State) : State :=
  if e.holding = .own ∧ ((e.voters.getD []).contains st ∨ (e.pendingVoters.getD []).contains st) then
    let s' := s.putEntry i (some { e with
      voters := e.voters.map (·.filter (· != st)), pendingVoters := e.pendingVoters.map (·.filter (· != st)) })
    if (e.pendingVoters.getD []).contains st then s'.tryTake i else s'
  else s

/-- R51: the loss of a peer, over every own entry that holds it, in index order. -/
def State.loseVoter (s : State) (st : Station) : State := s.forEntries (loseVoterAt st)

/-! ### Submission (R44, R45) -/

/-- The edit kind and contents of a SUBMIT, with its lead, its records and whether the contents lie in their ranges. -/
structure Submission where
  lead    : Byte
  target  : Target
  records : List Colour
  inRange : Bool
  deriving DecidableEq, Repr

/-- The five tests of R44, in order: the reason of the first that fails. -/
def State.submitRefusal (s : State) (x : Submission) : Option ResponseReason :=
  if s.ctl.role ≠ .member then some .notMember
  else if !(x.inRange && 4 ≤ x.lead.toNat) then some .invalid
  else if !(s.ownCount < 4 && s.entries.length < 16 && (s.findEntry ⟨s.own, s.edit.sequence⟩).isNone) then some .full
  else if s.conflictHeld x.target then some .conflict
  else if s.poolFree < x.target.reservation then some .noRoom
  else none

/-- The entry a passing SUBMIT creates (R45). -/
def State.submittedEntry (s : State) (x : Submission) : EditEntry :=
  { id := ⟨s.own, s.edit.sequence⟩, takeFrame := s.frame + BitVec.ofNat 32 x.lead.toNat, target := x.target,
    staged := x.records.map some, received := none, holding := .own, state := .sending, proposed := some false,
    voters := some [], pendingVoters := some [], cursor := if x.target.isPalette then some 0 else none,
    queryTries := none, queryWait := none, late := false, deferred := false, owed := some ⟨.propose, 0⟩ }

/-- R45: the entry is created at the lowest empty index and the sequence counter advances (R28). -/
def State.createOwn (s : State) (x : Submission) : State :=
  match s.freeIndex with
  | some i =>
    let s' := s.putEntry i (some (s.submittedEntry x))
    { s' with edit := { s'.edit with sequence := s.edit.sequence + 1 } }
  | none => s

/-! ### Completions of the entries' attempts (R46 to R48, R55, R59, R65) -/

/-- The attempt carrying an entry's message is delivered, heard or unheard. -/
def State.entryDelivered (s : State) (i : Nat) (e : EditEntry) (kind : MsgKind) : State :=
  match kind with
  | .propose =>
    let e := { e with proposed := some true, voters := some s.liveMembers, pendingVoters := some s.liveMembers }
    if e.target.isPalette then s.putEntry i (some { e with cursor := some 0, owed := some ⟨.data, 0⟩ })
    else (s.putEntry i (some { e with state := .awaiting, owed := none })).tryTake i
  | .data =>
    let j := e.cursor.getD 0 + 1
    if j < e.target.fragments then s.putEntry i (some { e with cursor := some j, owed := some ⟨.data, 0⟩ })
    else (s.putEntry i (some { e with cursor := some j, state := .awaiting, owed := none })).tryTake i
  | _ => s.putEntry i (some { e with owed := none })

/-- The attempt carrying an entry's message is abandoned: PROPOSE, DATA and ACCEPT are owed again (R48, R59), TAKE and
QUERY are not (R55, R65). -/
def State.entryAbandoned (s : State) (i : Nat) (e : EditEntry) (kind : MsgKind) : State :=
  s.putEntry i (some { e with owed :=
    match kind with
    | .propose | .data | .accept => some ⟨kind, 0⟩
    | _ => none })

/-! ### Admission of a PROPOSE (R29 to R35) -/

/-- R29: a refusal at a member, a silent ignoring with the missed flag at a non-member. -/
def State.rejectProposal (s : State) (id : EditId) (reason : Reason) : State :=
  if s.ctl.role = .member then s.refuse id reason else s.noteMissed

/-- R30: an entry with the same edit id is dropped. -/
def State.supersede (s : State) (id : EditId) : State :=
  match s.findEntry id with
  | some (i, e) => s.dropEntry i e .superseded
  | none => s

/-- R31: own unsent entries in conflict are withdrawn, in index order. -/
def State.withdrawUnsent (s : State) (t : Target) : State :=
  s.forEntries fun i e s =>
    if e.holding = .own ∧ e.proposed = some false ∧ e.target.conflicts t then s.dropEntry i e .conflict else s

/-- The entry an admitted proposal creates (R35). -/
def admittedEntry (role : Role) (id : EditId) (takeFrame : FrameNo) (t : Target) : EditEntry :=
  let voter := role = .member
  { id := id, takeFrame := takeFrame, target := t, staged := List.replicate t.reservation none,
    received := if t.isPalette then some [] else none, holding := if voter then .voter else .observer,
    state := if t.isPalette then .collecting else if voter then .accepted else .complete, proposed := none,
    voters := none, pendingVoters := none, cursor := none, queryTries := if voter then some 0 else none,
    queryWait := none, late := false, deferred := false,
    owed := if !t.isPalette && voter then some ⟨.accept, 0⟩ else none }

/-- R32 to R35: conflict, lead window, room, and the new entry. -/
def State.admitProposal (s : State) (id : EditId) (takeFrame : FrameNo) (t : Target) : State :=
  let d := frameDiff takeFrame s.frame
  if s.conflictHeld t then s.rejectProposal id .conflict
  else if d < 3 ∨ 256 < d then s.rejectProposal id .lead
  else if s.poolFree < t.reservation then s.rejectProposal id .noRoom
  else
    match s.freeIndex with
    | some i => s.putEntry i (some (admittedEntry s.ctl.role id takeFrame t))
    | none => s.rejectProposal id .noRoom

/-- R29: the role and the two faults of an arriving PROPOSE, then R30 to R35. -/
def State.proposeArrives (s : State) (sender : Station) (id : EditId) (takeFrame : FrameNo) (t : Target) : State :=
  if s.ctl.role ≠ .listen ∧ s.ctl.role ≠ .align ∧ s.ctl.role ≠ .member then s
  else if id.proposer ≠ sender ∨ id.proposer = s.own ∨ !t.inRange then s
  else ((s.supersede id).withdrawUnsent t).admitProposal id takeFrame t

/-! ### Contents (R57, R58) -/

/-- R58: the check of a complete fragment set. -/
def State.checkFragments (s : State) (i : Nat) (e : EditEntry) : State :=
  match e.target with
  | .palette start _ check =>
    if checkValue start.toNat (e.staged.map recordOr) = check then
      match e.holding with
      | .voter => s.enter i { e with state := .accepted } (some .accept)
      | _ => s.enter i { e with state := .complete } none
    else
      match e.holding with
      | .voter => (s.refuse e.id .check).dropEntry i e .check
      | _ => s.removeEntry i
  | _ => s

/-- R57: a valid new fragment is stored; the fragment that completes the set brings the check. -/
def State.storeFragment (s : State) (i : Nat) (e : EditEntry) (j : Nat) (records : List Colour) : State :=
  let count := e.target.reservation
  let got := e.received.getD []
  if e.state = .collecting ∧ j < fragmentCount count ∧ !got.contains j ∧ records.length = fragmentSize count j then
    let e := { e with staged := writeFrom e.staged (5 * j) (records.map some), received := some (insertNat j got) }
    let s := s.putEntry i (some e)
    if holdsAll (fragmentCount count) (insertNat j got) then s.checkFragments i e else s
  else s

/-- R56: a message that only the proposer may send, not under the own number. -/
def State.fromProposer (s : State) (sender : Station) (id : EditId) : Bool := sender != s.own && sender = id.proposer

/-- R57: a DATA arrival. -/
def State.dataArrives (s : State) (sender : Station) (id : EditId) (j : Nat) (records : List Colour) : State :=
  if s.fromProposer sender id then
    match s.findEntry id with
    | some (i, e) => s.storeFragment i e j records
    | none => s
  else s

/-! ### Votes (R49, R50) -/

/-- R49: an ACCEPT arrival. -/
def State.acceptArrives (s : State) (sender : Station) (id : EditId) : State :=
  match s.findEntry id with
  | some (i, e) =>
    if sender ≠ s.own ∧ e.holding = .own ∧ e.undecided ∧ (e.pendingVoters.getD []).contains sender then
      (s.putEntry i (some { e with pendingVoters := e.pendingVoters.map (·.filter (· != sender)) })).tryTake i
    else s
  | none => s

/-- R50: a REFUSE arrival; the reason it carries plays no part. -/
def State.refuseArrives (s : State) (sender : Station) (id : EditId) : State :=
  match s.findEntry id with
  | some (i, e) =>
    if sender ≠ s.own ∧ e.holding = .own ∧ e.undecided ∧ (e.voters.getD []).contains sender then
      s.decideDrop i e .refused (some sender)
    else s
  | none => s

/-! ### The decision and its report (R61 to R63, R66 to R68) -/

/-- An entry becomes TAKEN on a report of the proposer's decision: late when its take frame is not later than the own
frame, and TAKE-LATE is then posted (R61, R62, R67). -/
def State.becomeTaken (s : State) (i : Nat) (e : EditEntry) : State :=
  let late := !laterThan e.takeFrame s.frame
  let s := s.enter i { e with state := .taken, late := late, queryWait := none } none
  if late then s.post .takeLate none (some e.id) else s

/-- R61: a TAKE arrival. -/
def State.takeArrives (s : State) (sender : Station) (id : EditId) : State :=
  if s.fromProposer sender id then
    match s.findEntry id with
    | some (i, e) =>
      match e.state with
      | .accepted | .complete | .inDoubt => (s.becomeTaken i e).recordOutcome ⟨id, true, none, none⟩
      | .collecting => if e.holding = .observer then (s.removeEntry i).noteMissed else s
      | .sending | .awaiting | .taken => s
    | none => s
  else s

/-- R63: a DROP arrival; the reason it carries does not alter the one posted. -/
def State.dropArrives (s : State) (sender : Station) (id : EditId) : State :=
  if s.fromProposer sender id then
    match s.findEntry id with
    | some (i, e) =>
      match e.state with
      | .collecting | .accepted | .complete | .inDoubt =>
        (s.dropEntry i e .droppedByProposer).recordOutcome ⟨id, false, none, none⟩
      | .sending | .awaiting | .taken => s
    | none => s
  else s

/-- R66 at the outcome list: a member's outcome entry that owes nothing comes to owe OUTCOME. -/
def State.answerQuery (s : State) (id : EditId) : State :=
  if s.ctl.role = .member then
    s.setOutcome id fun o => if o.owed = none then { o with owed := some ⟨.outcome, 0⟩ } else o
  else s

/-- R66 at the edit table: an owed QUERY that has not begun an attempt is withdrawn. -/
def State.yieldQuery (s : State) (id : EditId) : State :=
  match s.findEntry id with
  | some (i, e) =>
    if (e.owed.map (·.kind)) = some .query ∧ !s.inAttempt (.entry i) then s.putEntry i (some { e with owed := none }) else s
  | none => s

/-- R66: a QUERY arrival; one under the own number is ignored (R56). -/
def State.queryArrives (s : State) (sender : Station) (id : EditId) : State :=
  if sender = s.own then s else (s.answerQuery id).yieldQuery id

/-- R67: an OUTCOME arrival at the edit table. -/
def State.learnOutcome (s : State) (id : EditId) (taken : Bool) : State :=
  match s.findEntry id with
  | some (i, e) =>
    match e.state with
    | .accepted | .complete | .inDoubt => if taken then s.becomeTaken i e else s.dropEntry i e .droppedByProposer
    | .sending | .awaiting | .collecting | .taken => s
  | none => s

/-- R68: the own owed OUTCOME for the id is withdrawn when it has not begun an attempt. -/
def State.yieldOutcome (s : State) (id : EditId) : State :=
  if s.inAttempt (.outcome id) then s
  else s.setOutcome id fun o => if o.owed.map (·.kind) = some .outcome then { o with owed := none } else o

/-- R67, R68: an OUTCOME arrival; one under the own number is ignored (R56). -/
def State.outcomeArrives (s : State) (sender : Station) (id : EditId) (taken : Bool) : State :=
  if sender = s.own then s else (s.learnOutcome id taken).yieldOutcome id

/-! ### Application and deferral (R9, R36 to R38) -/

/-- R9: the write of one edit's target, and the version raised by one (R10). -/
def WallState.apply (w : WallState) (e : EditEntry) : WallState :=
  let w := { w with version := w.version + 1 }
  match e.target with
  | .palette start count _ =>
    { w with palette := tabulate 256 fun k =>
        if start.toNat ≤ k ∧ k < start.toNat + count.toNat then recordOr (e.staged[k - start.toNat]?).join
        else recordOr w.palette[k]? }
  | .pan x y => { w with panX := x, panY := y }
  | .level value => { w with level := value }
  | .blank on => { w with blank := on }

/-- R143: an application while the torn window is open sets the responder's torn flag. -/
def Responder.noteApplication (r : Responder) : Responder := if r.windowOpen then { r with torn := true } else r

/-- R37: an entry is applied: the write, the version, EDIT-TAKEN, the removal, the torn mark. -/
def State.applyEntry (s : State) (i : Nat) (e : EditEntry) : State :=
  let s := { s with wall := s.wall.apply e, catchUp := { s.catchUp with resp := s.catchUp.resp.noteApplication } }
  (s.post .editTaken none (some e.id)).removeEntry i

/-- R38: a due entry is deferred; a late one sets the missed flag (R137). -/
def State.deferEntry (s : State) (i : Nat) (e : EditEntry) : State :=
  let s := s.putEntry i (some { e with deferred := true })
  if e.late then s.noteMissed else s

/-- The entry is due on time at frame f (R36). -/
def EditEntry.dueOnTime (f : FrameNo) (e : EditEntry) : Bool :=
  e.state = .taken && !e.late && !e.deferred && !laterThan e.takeFrame f

/-- The entry is due late (R36). -/
def EditEntry.dueLate (e : EditEntry) : Bool := e.state = .taken && e.late && !e.deferred

/-- The due entries are applied, or deferred while the station is catching up, in edit-id order (R36 to R38). -/
def State.takeDue (s : State) (due : EditEntry → Bool) : State :=
  let xs := sortBy (fun a b => EditId.before a.2.id b.2.id) (s.entries.filter fun x => due x.2)
  xs.foldl (fun s x => if s.catchingUp then s.deferEntry x.1 x.2 else s.applyEntry x.1 x.2) s

/-- Steps 3 and 4 of R11: on-time entries, then late ones. -/
def State.applications (s : State) : State :=
  (s.takeDue (EditEntry.dueOnTime s.frame)).takeDue EditEntry.dueLate

/-- The deferred entries at a dump apply (R38): those not later than F are removed, the others applied in take-frame order
counted from F, equal ones in edit-id order. -/
def State.applyDeferred (s : State) (f : FrameNo) : State :=
  let held := s.entries.filter fun x => x.2.deferred
  let old := held.filter fun x => !laterThan x.2.takeFrame f
  let rest := held.filter fun x => laterThan x.2.takeFrame f
  let rest := sortBy (fun a b => frameDiff a.2.takeFrame f < frameDiff b.2.takeFrame f
    || (frameDiff a.2.takeFrame f = frameDiff b.2.takeFrame f && EditId.before a.2.id b.2.id)) rest
  rest.foldl (fun s x => s.applyEntry x.1 x.2) (old.foldl (fun s x => s.removeEntry x.1) s)

/-! ### The frame starts (R53, R60, R64, R65, R69) -/

/-- R53: own undecided entries with t − f at most 2. -/
def State.ownDeadlines (s : State) : State :=
  s.forEntries fun i e s =>
    if e.holding = .own ∧ e.undecided ∧ s.leadOf e ≤ 2 then s.decideDrop i e .deadline else s

/-- R60: collecting entries with t − f at most 2. -/
def State.collectionDeadlines (s : State) : State :=
  s.forEntries fun i e s =>
    if e.state = .collecting ∧ s.leadOf e ≤ 2 then
      match e.holding with
      | .voter => (s.refuse e.id .late).dropEntry i e .late
      | _ => (s.removeEntry i).noteMissed
    else s

/-- R64: accepted voters whose take frame has come. -/
def State.goInDoubt (s : State) : State :=
  s.forEntries fun i e s =>
    if e.holding = .voter ∧ e.state = .accepted ∧ !laterThan e.takeFrame s.frame then
      s.enter i { e with state := .inDoubt, queryTries := some 1, queryWait := some 8 } (some .query)
    else s

/-- R65: the second try of a query whose first wait has run out. A QUERY still owed stays, unless it is in an attempt
(log 17). -/
def State.queryAgain (s : State) (i : Nat) (e : EditEntry) : State :=
  let e := { e with queryTries := some 2, queryWait := some 8 }
  if (e.owed.map (·.kind)) = some .query ∧ !s.inAttempt (.entry i) then s.putEntry i (some e)
  else s.enter i e (some .query)

/-- An IN-DOUBT entry whose query wait runs out at this frame start. -/
def EditEntry.queryExpires (e : EditEntry) : Bool :=
  e.state = .inDoubt && (match e.queryWait with | some w => w ≤ 1 | none => false)

/-- R65: the query waits, in index order: the rule gives the events of several entries whose waits run out at one frame start no
order (log 11). -/
def State.queryWaits (s : State) : State :=
  s.forEntries fun i e s =>
    if e.queryExpires then
      if e.queryTries = some 1 then s.queryAgain i e else s.dropEntry i e .noOutcome
    else if e.state = .inDoubt then s.putEntry i (some { e with queryWait := e.queryWait.map (· - 1) })
    else s

/-- R69: complete observers sixteen frames after their take frame. -/
def State.observerExpiry (s : State) : State :=
  s.forEntries fun i e s =>
    if e.holding = .observer ∧ e.state = .complete ∧ 16 ≤ frameDiff s.frame e.takeFrame then
      (s.removeEntry i).noteMissed
    else s

/-! ### Role changes, renumbers and aborts (R40 to R42, R70, R139) -/

/-- R40: a voter's entries when the station ceases to vote. -/
def ceaseVotingAt (i : Nat) (e : EditEntry) (s : State) : State :=
  if e.holding = .voter then
    match e.state with
    | .collecting => s.putEntry i (some { e with holding := .observer, queryTries := none })
    | .accepted => s.enter i { e with holding := .observer, state := .complete, queryTries := none } none
    | _ => s
  else s

/-- R40: an owed OUTCOME that has not begun an attempt is withdrawn. -/
def State.withdrawAnswer (s : State) (o : OutcomeEntry) : OutcomeEntry :=
  if o.owed.map (·.kind) = some .outcome ∧ !s.inAttempt (.outcome o.id) then { o with owed := none } else o

/-- R40: the change out of MEMBER to ALIGN or LEAVING at the Edit Unit. An OUTCOME in an attempt stays. -/
def State.ceaseVoting (s : State) : State :=
  let s := s.emptyRefusals.forEntries ceaseVotingAt
  { s with edit := { s.edit with outcomes := s.edit.outcomes.map s.withdrawAnswer } }

/-- R41, R42: every entry is dropped with one reason, in index order. -/
def State.dropAll (s : State) (reason : Reason) : State := s.forEntries fun i e s => s.dropEntry i e reason

/-- R42: the Edit Unit at entry to OFFLINE or DETACHED; the sequence counter is kept (R28). -/
def State.emptyEdits (s : State) (reason : Reason) : State :=
  let s := (s.dropAll reason).emptyRefusals
  let s := s.edit.outcomes.foldl (fun s o => s.withdraw (.outcome o.id)) s
  { s with edit := { s.edit with outcomes := [] } }

/-- R70: the own undecided edits at LEAVE, in index order. -/
def State.leaveOwnEdits (s : State) : State :=
  s.forEntries fun i e s =>
    if e.holding = .own ∧ e.undecided then
      if e.proposed = some true then s.decideDrop i e .left else s.dropEntry i e .left
    else s

/-- R139: an abort clears the deferred field of every deferred entry. -/
def State.clearDeferred (s : State) : State :=
  s.forEntries fun i e s => if e.deferred then s.putEntry i (some { e with deferred := false }) else s

end Sys2Proof.Machine
end

