-- ==== Sys2Proof/Machine/PeerTable.lean ====
section
/-! DEFINITION. The Peer Table (chapter 4): liveness, captures, offsets, verdicts, the miss count, and what an adopt does to it. -/

namespace Sys2Proof.Machine

open Sys2Proof

/-- The station number of an index. -/
def stationOf (n : Nat) : Station := BitVec.ofNat 8 n

/-! ### Beacons (R74 to R76, R82, R83, R85) -/

/-- The beacon's L and N are those of the station's record (R74). -/
def State.compatible (s : State) (b : Beacon) : Bool := b.lineLength = s.cfg.lineLength && b.lines = s.cfg.lines

/-- Step 1 of R75: liveness. -/
def Peer.hear (p : Peer) : Peer :=
  { p with state := (match p.state with | .heard | .live => .live | .absent | .silent | .incompatible => .heard),
           misses := 0, seen := true }

/-- The difference of two times as an offset's value: a far mark from 2^20 frames on (R2, R83). -/
def offsetValue (c : ConfigRecord) (own peer : Time) : OffsetValue :=
  let df := frameDiff own.frame peer.frame
  if df ≤ -farFrames then .farAhead
  else if farFrames ≤ df then .farBehind
  else .value (df * c.p + ((own.phase : Int) - peer.phase))

/-- Step 2 of R75: the stamp pairing of R83 against the capture held. -/
def Peer.pair (c : ConfigRecord) (b : Beacon) (p : Peer) : Peer :=
  if p.capture.valid ∧ b.stampValid ∧ b.stampFrame = p.capture.senderFrame then
    let stamp : Time := ⟨b.stampFrame, b.stampPhase.toNat⟩
    { p with offset := some ⟨offsetValue c p.capture.own stamp, p.capture.own, stamp, true⟩ }
  else p

/-- Steps 3 and 4 of R75: the capture of R82 and the reported fields. -/
def Peer.note (b : Beacon) (role : Role) (time : Time) (usable : Bool) (p : Peer) : Peer :=
  { p with capture := ⟨b.frame, time, usable⟩, reported := some ⟨role, b.locked, b.version, b.frame⟩ }

/-- Step 5 of R75: a verdict, when R85 allows it. -/
def State.judge (s : State) (b : Beacon) (p : Peer) : Peer :=
  if s.ctl.role = .member ∧ p.liveMember ∧ b.frame = s.frame then
    { p with verdict := if b.version = s.wall.version then .agree else .differ }
  else p

/-- R75: a compatible beacon from the peer at an index. -/
def State.compatibleBeacon (s : State) (n : Nat) (p : Peer) (b : Beacon) (role : Role) (time : Time) (usable : Bool) :
    State :=
  let s' := s.putPeer n (s.judge b (((p.hear).pair s.cfg b).note b role time usable))
  if p.state = .heard then s'.post .peerLive (some (stationOf n)) else s'

/-- R76: a mismatching beacon; the pair of the capture stays (R82). -/
def Peer.mismatch (b : Beacon) (role : Role) (p : Peer) : Peer :=
  { state := .incompatible, seen := true, misses := 0, reported := some ⟨role, b.locked, b.version, b.frame⟩,
    capture := { p.capture with valid := false }, offset := none, verdict := .none }

/-- R76: a mismatching beacon from the peer at an index, handed on as a loss from any other state (R80). -/
def State.mismatchingBeacon (s : State) (n : Nat) (p : Peer) (b : Beacon) (role : Role) : State :=
  let s' := s.putPeer n (p.mismatch b role)
  if p.state = .incompatible then s'
  else (s'.post .peerIncompatible (some (stationOf n))).loseVoter (stationOf n)

/-- R74: a beacon from another station, screened by its role field and its geometry. -/
def State.beaconArrives (s : State) (sender : Station) (b : Beacon) (time : Time) (usable : Bool) : State :=
  match Role.ofBeacon b.role, s.peerAt sender.toNat with
  | some role, some p =>
    if s.compatible b then s.compatibleBeacon sender.toNat p b role time usable
    else s.mismatchingBeacon sender.toNat p b role
  | _, _ => s

/-- R78, R162: a FAREWELL. It is ignored when the number it carries is not its sender's, or is the own number. -/
def State.farewellArrives (s : State) (sender station : Station) : State :=
  if station ≠ sender ∨ sender = s.own then s
  else
    match s.peerAt sender.toNat with
    | some p =>
      if p.state = .absent then s
      else ((s.putPeer sender.toNat p.clear).post .peerLeft (some sender)).loseVoter sender
    | none => s

/-! ### The frame start (R77, R86) -/

/-- The entry becomes SILENT at this frame start: LIVE, no beacon, and its misses reach 3 (R77). -/
def Peer.fallsSilent (p : Peer) : Bool := p.state = .live && !p.seen && 3 ≤ p.misses + 1

/-- The fresh flag of an entry's offset is cleared (R84). -/
def Peer.useOffset (p : Peer) : Peer := { p with offset := p.offset.map fun o => { o with fresh := false } }

/-- R77: the miss count of the entry at an index, with its loss (R80). -/
def State.missAt (s : State) (n : Nat) : State :=
  match s.peerAt n with
  | some p =>
    if p.seen then s.putPeer n { p with seen := false }
    else
      match p.state with
      | .heard => (s.putPeer n p.clear).loseVoter (stationOf n)
      | .live =>
        if p.fallsSilent then
          ((s.putPeer n { p.useOffset with state := .silent, misses := 3 }).post .peerSilent
            (some (stationOf n))).loseVoter (stationOf n)
        else s.putPeer n { p with misses := p.misses + 1 }
      | .absent | .silent | .incompatible => s
  | none => s

/-- R77: the miss count over every entry, in rising station number: the rules give the events and losses of several entries
of one frame start no order (log 11). -/
def State.missCount (s : State) : State := (List.range 32).foldl State.missAt s

/-- R86: every verdict becomes none. -/
def State.clearVerdicts (s : State) : State := s.mapPeers fun p => { p with verdict := .none }

/-- The number of entries that hold a verdict. -/
def State.verdicts (s : State) (v : Verdict) : Nat := (s.peerList.filter fun x => x.2.verdict = v).length

/-- R72: every entry is cleared. -/
def State.clearPeers (s : State) : State := s.mapPeers Peer.clear

/-- R108: an adopt takes effect on the Peer Table: captures lose their valid flags, and every fresh offset is used. -/
def State.adoptPeers (s : State) : State :=
  s.mapPeers fun p => { p.useOffset with capture := { p.capture with valid := false } }

end Sys2Proof.Machine
end

