-- ==== Sys2Proof/Machine/FrameTimer.lean ====
section
/-! DEFINITION. The Frame Timer (chapter 5): the frame start, the wall error, the correction regimes, the lock and the adopt. -/

namespace Sys2Proof.Machine

open Sys2Proof

/-! ### Lock status (R102, R103) -/

/-- The lock status and counter take values; LOCK-LOST is posted if the status was LOCKED. -/
def State.loseLock (s : State) (lock : Lock) : State :=
  let s' := { s with timer := { s.timer with lock := lock, lockCount := 0 } }
  if s.timer.lock = .locked then s'.post .lockLost else s'

/-- R103: the lock at entry to OFFLINE, LISTEN or DETACHED. -/
def State.freeLock (s : State) : State := s.loseLock .free

/-- R102: the first step, with at least one contributor: FREE becomes SETTLING. -/
def Lock.engage : Lock → Lock
  | .free => .settling
  | .settling => .settling
  | .locked => .locked

/-- R102: a FINE frame start. -/
def State.fineLock (s : State) : State :=
  if s.timer.lockCount < 7 then { s with timer := { s.timer with lockCount := s.timer.lockCount + 1 } }
  else
    let s' := { s with timer := { s.timer with lock := .locked, lockCount := 8 } }
    if s.timer.lockCount = 7 then s'.post .locked else s'

/-! ### The adopt (R104 to R108) -/

/-- The forward distance of an offset record (R104). -/
def forwardDistance (p : Nat) (o : Offset) : Nat :=
  let m : Int := 4294967296 * p
  match o.value with
  | .value v => if v ≤ 0 then (-v).toNat else (m - v).toNat
  | .farAhead | .farBehind =>
    (((o.peer.frame - o.own.frame).toNat * p + ((o.peer.phase : Int) - o.own.phase)) % m).toNat

/-- The place of an offset in the order of R105: group, then a key that is smaller for a peer further ahead. -/
def aheadKey (p : Nat) (o : Offset) : Nat × Int :=
  match o.value with
  | .farAhead => (1, -(forwardDistance p o : Int))
  | .value v => (2, v)
  | .farBehind => (3, -(forwardDistance p o : Int))

/-- The first offset is ahead by more than the second (R105). -/
def aheadOf (p : Nat) (a b : Offset) : Bool :=
  (aheadKey p a).1 < (aheadKey p b).1 || ((aheadKey p a).1 = (aheadKey p b).1 && (aheadKey p a).2 < (aheadKey p b).2)

/-- The peer ahead by most, the lowest station number among equals (R105). -/
def aheadByMost (p : Nat) (xs : List (Nat × Offset)) : Option (Nat × Offset) :=
  xs.foldl (fun best x => match best with
    | none => some x
    | some y => if aheadOf p x.2 y.2 then some x else some y) none

/-- The correction of the adopt frame and the pending advance (R106). -/
def adoptForm (c : ConfigRecord) (d : Nat) : Int × FrameNo :=
  let whole := d / c.p
  let part := d % c.p
  if (part : Int) ≤ c.shorteningLimit ∧ 1 + whole ≠ 4294967296 then (-(part : Int), BitVec.ofNat 32 (1 + whole))
  else
    let k := (2 + whole) % 4294967296
    ((c.p : Int) - part, if k = 0 then 4294967295 else BitVec.ofNat 32 k)

/-- R106, R107: the adopt of a peer is decided: the correction is fixed and the advance held. -/
def State.decideAdopt (s : State) (o : Offset) : State :=
  let f := adoptForm s.cfg (forwardDistance s.cfg.p o)
  { s with timer := { s.timer with correction := f.1, advance := some f.2 } }

/-- R108: an adopt takes effect on the attempt in flight: its receive time, or the start time of an own beacon, becomes
unusable. -/
def Attempt.adopt : Attempt → Attempt
  | .transmitting t => .transmitting { t with usable := false }
  | .receiving time _ => .receiving time false

/-- R108: an adopt takes effect. -/
def State.adoptEffect (s : State) : State :=
  let s := s.adoptPeers
  { s with bus := { s.bus with attempt := s.bus.attempt.map Attempt.adopt, startValid := false } }

/-- R94: the frame number advances by one, or by the pending advance, with which the adopt takes effect. -/
def State.advanceFrame (s : State) : State :=
  let s' := { s with timer := { s.timer with
    frame := s.timer.frame + s.timer.advance.getD 1, advance := none, line := 0, pixel := 0 } }
  if s.timer.advance.isSome then s'.adoptEffect else s'

/-! ### The wall error (R96 to R98) -/

/-- The contributors: the LIVE entries (R96). -/
def State.contributors (s : State) : List (Nat × Peer) := s.peerList.filter fun x => x.2.state = .live

/-- The fresh offsets of some entries. -/
def freshOffsets (xs : List (Nat × Peer)) : List (Nat × Offset) :=
  xs.filterMap fun x => match x.2.offset with
    | some o => if o.fresh then some (x.1, o) else none
    | none => none

/-- A candidate: ahead of the station by half a frame or more (R96). -/
def Offset.candidate (p : Nat) (o : Offset) : Bool :=
  match o.value with
  | .farAhead => true
  | .value v => v ≤ -((p / 2 : Nat) : Int)
  | .farBehind => false

/-- The value of a remaining offset: less than half a frame either way (R96). -/
def Offset.remaining (p : Nat) (o : Offset) : Option Int :=
  match o.value with
  | .value v => if -((p / 2 : Nat) : Int) < v ∧ v < ((p / 2 : Nat) : Int) then some v else none
  | .farAhead | .farBehind => none

/-- The wall error of the remaining offsets: S / (n + 1), truncated toward zero (R97). -/
def wallError (vs : List Int) : Int := vs.sum.tdiv (vs.length + 1)

/-- Every fresh offset of a LIVE entry is marked used (R96, R109). -/
def State.useLiveOffsets (s : State) : State := s.mapPeers fun p => if p.state = .live then p.useOffset else p

/-- R101: the trim steps toward the wall, or TRIM-LIMIT is posted. -/
def State.stepTrim (s : State) (e : Int) : State :=
  if 0 < e then
    if s.timer.trim = 1023 then s.post .trimLimit else { s with timer := { s.timer with trim := s.timer.trim + 1 } }
  else if e < 0 then
    if s.timer.trim = 0 then s.post .trimLimit else { s with timer := { s.timer with trim := s.timer.trim - 1 } }
  else s

/-- The correction of the frame that begins. -/
def State.setCorrection (s : State) (c : Int) : State := { s with timer := { s.timer with correction := c } }

/-- R99 to R101: the regime of a wall error. A FINE frame start that refuses a trim step and locks posts TRIM-LIMIT before
LOCKED, which no rule orders (log 11). -/
def State.steer (s : State) (e : Int) : State :=
  if 4 * (s.cfg.l : Int) ≤ |e| then
    (s.setCorrection (clamp (-s.cfg.shorteningLimit) s.cfg.p e)).loseLock .settling
  else if 16 ≤ |e| then
    (s.setCorrection (clamp (-(s.cfg.l : Int)) s.cfg.l (e.tdiv 2))).loseLock .settling
  else ((s.setCorrection (e.tdiv 2)).stepTrim e).fineLock

/-- What the Frame Timer hands on when it decides an adopt (R107). -/
inductive AdoptKind where
  /-- In LISTEN (R109). -/
  | listen
  /-- In ALIGN, MEMBER or LEAVING (R110). -/
  | renumber
  deriving DecidableEq, Repr

/-- R98: the frame start in ALIGN, MEMBER or LEAVING. -/
def State.steerFrame (s : State) : State × Option AdoptKind :=
  let cs := s.contributors
  let fresh := freshOffsets cs
  let s := if cs = [] then s else { s with timer := { s.timer with lock := s.timer.lock.engage } }
  let s := (s.setCorrection 0).useLiveOffsets
  match aheadByMost s.cfg.p (fresh.filter fun x => x.2.candidate s.cfg.p) with
  | some x => (((s.decideAdopt x.2).post .renumbered (some (stationOf x.1))).loseLock .settling, some .renumber)
  | none =>
    let vs := fresh.filterMap fun x => x.2.remaining s.cfg.p
    if cs = [] then (s.loseLock .free, none)
    else if vs = [] then (s, none)
    else (s.steer (wallError vs), none)

/-- R109: the adopt test at a frame start in LISTEN. -/
def State.listenFrame (s : State) : State × Option AdoptKind :=
  let fresh := freshOffsets (s.peerList.filter fun x => x.2.liveMember)
  let s := (s.setCorrection 0).useLiveOffsets
  match aheadByMost s.cfg.p fresh with
  | some x => (s.decideAdopt x.2, some .listen)
  | none => (s, none)

/-- R95: what the Frame Timer does at a frame start, by the role it reads. -/
def State.timerWork (s : State) : State × Option AdoptKind :=
  match s.ctl.role with
  | .offline | .detached => (s.setCorrection 0, none)
  | .listen => s.listenFrame
  | .align | .member | .leaving => s.steerFrame

end Sys2Proof.Machine
end

