-- ==== Sys2Proof/Machine/CatchUpUnit.lean ====
section
/-! DEFINITION. The Catch-Up Unit (chapter 7): the requester's cycles, the dump apply, the abort, and the responder. -/

namespace Sys2Proof.Machine

open Sys2Proof

/-- The requester context changes. -/
def State.setReq (s : State) (r : Requester) : State := { s with catchUp := { s.catchUp with req := r } }

/-- The responder context changes. -/
def State.setResp (s : State) (r : Responder) : State := { s with catchUp := { s.catchUp with resp := r } }

/-- Every buffer entry loses its standing (R131). -/
def State.clearBuffer (s : State) : State := { s with catchUp := { s.catchUp with buffer := emptyBuffer } }

/-! ### The requester (R132 to R137) -/

/-- The requester context with its reception discarded (R136). -/
def Requester.discard (r : Requester) : Requester :=
  { r with responder := none, header := none, receiveWait := none, askWait := none, received := [] }

/-- R132: a cycle begins: ASKING with a DUMP-REQUEST owed. -/
def State.beginCycle (s : State) : State :=
  ((s.withdraw .requester).setReq { s.catchUp.req.discard with
    state := .asking, tries := 0, retryWait := none, owed := some ⟨.dumpRequest, 0⟩ }).clearBuffer

/-- R132: a catch-up start begins a cycle, or sets the missed flag when the context is not IDLE. -/
def State.catchUpStart (s : State) : State :=
  if s.catchUp.req.state = .idle then s.beginCycle else s.setReq { s.catchUp.req with missed := true }

/-- R136: a failed try. -/
def State.failedTry (s : State) : State :=
  let r := s.catchUp.req
  let s := (s.withdraw .requester).clearBuffer
  if r.tries + 1 < 4 then
    s.setReq { r.discard with state := .asking, tries := r.tries + 1, owed := some ⟨.dumpRequest, 0⟩ }
  else
    (s.setReq { r.discard with state := .retryWait, tries := r.tries + 1, retryWait := some 64, owed := none }).post
      .dumpFailed

/-- A wait that runs out at this frame start. -/
def runsOut : Option Nat → Bool
  | some w => w ≤ 1
  | none => false

/-- The ask wait runs out at this frame start (R132). -/
def State.askExpires (s : State) : Bool := s.catchUp.req.state = .asking && runsOut s.catchUp.req.askWait

/-- The receive wait runs out at this frame start (R135). -/
def State.receiveExpires (s : State) : Bool := s.catchUp.req.state = .receiving && runsOut s.catchUp.req.receiveWait

/-- The retry wait runs out at this frame start (R136). -/
def State.retryExpires (s : State) : Bool := s.catchUp.req.state = .retryWait && runsOut s.catchUp.req.retryWait

/-- R135: the responder is lost: its entry is ABSENT or INCOMPATIBLE. -/
def State.responderLost (s : State) : Bool :=
  s.catchUp.req.state = .receiving &&
    (match s.catchUp.req.responder with
    | some r =>
      match s.peerAt r.toNat with
      | some p => p.state = .absent || p.state = .incompatible
      | none => true
    | none => true)

/-- The waits of the requester at a frame start (R132, R135, R136). -/
def State.catchUpWaits (s : State) : State :=
  if s.askExpires || s.receiveExpires || s.responderLost then s.failedTry
  else if s.retryExpires then s.beginCycle
  else
    let r := s.catchUp.req
    match r.state with
    | .asking => s.setReq { r with askWait := r.askWait.map (· - 1) }
    | .receiving => s.setReq { r with receiveWait := r.receiveWait.map (· - 1) }
    | .retryWait => s.setReq { r with retryWait := r.retryWait.map (· - 1) }
    | .idle | .applyPending => s

/-- R133: a DUMP-BEGIN is accepted from a sender: the reception starts, or starts again. A DUMP-REQUEST that waits between a
void attempt and its retry counts as one whose attempt has not begun (log 17). -/
def State.startReception (s : State) (sender : Station) (h : Header) : State :=
  ((s.withdraw .requester).setReq { s.catchUp.req with
    state := .receiving, askWait := none, responder := some sender, header := some h, received := [],
    receiveWait := some 8, owed := none }).clearBuffer

/-- R133: a DUMP-BEGIN arrival at the requester context; one under the own number is ignored (R73; log 32). -/
def State.requesterDumpBegin (s : State) (sender requester : Station) (h : Header) : State :=
  if requester ≠ s.own ∨ sender = s.own then s
  else
    match s.catchUp.req.state with
    | .asking => s.startReception sender h
    | .receiving => if s.catchUp.req.responder = some sender then s.startReception sender h else s
    | .idle | .applyPending | .retryWait => s

/-- R134, R162: the arrival names this station, comes from r, and finds the state RECEIVING. -/
def State.fromResponder (s : State) (sender requester : Station) : Bool :=
  requester = s.own && s.catchUp.req.state = .receiving && s.catchUp.req.responder = some sender

/-- The buffer with records written from an index onward. -/
def writeBuffer (buffer : Vector (Option Colour) 256) (pos : Nat) : List Colour → Vector (Option Colour) 256
  | [] => buffer
  | c :: rest => writeBuffer (buffer.setIfInBounds pos (some c)) (pos + 1) rest

/-- R134: a DUMP-DATA arrival. -/
def State.dumpDataArrives (s : State) (sender requester : Station) (j : Nat) (records : List Colour) : State :=
  if s.fromResponder sender requester then
    let r := { s.catchUp.req with receiveWait := some 8 }
    if j < 52 ∧ !r.received.contains j ∧ records.length = fragmentSize 256 j then
      { s with catchUp := { s.catchUp with
        req := { r with received := insertNat j r.received }, buffer := writeBuffer s.catchUp.buffer (5 * j) records } }
    else s.setReq r
  else s

/-- R135: the dump received is good: not torn, complete, and its check value is the one carried. -/
def State.dumpGood (s : State) (torn : Bool) (check : Half) : Bool :=
  !torn && holdsAll 52 s.catchUp.req.received && checkValue 0 (s.catchUp.buffer.toList.map recordOr) = check

/-- R135: a DUMP-END arrival. -/
def State.dumpEndArrives (s : State) (sender requester : Station) (torn : Bool) (check : Half) : State :=
  if s.fromResponder sender requester then
    if s.dumpGood torn check then s.setReq { s.catchUp.req with state := .applyPending, receiveWait := none }
    else s.failedTry
  else s

/-- R132: the completion of the DUMP-REQUEST attempt as delivered. -/
def State.requestDelivered (s : State) : State := s.setReq { s.catchUp.req with owed := none, askWait := some 8 }

/-! ### The dump apply (R8, R138) and the abort (R139) -/

/-- R8: the write of a dump. -/
def WallState.load (h : Header) (buffer : Vector (Option Colour) 256) : WallState :=
  { palette := mapTable recordOr buffer, panX := h.panX, panY := h.panY, level := h.level, blank := h.blank,
    version := h.version, valid := true }

/-- R138: the dump of a header is applied: the write, the deferred edits, DUMP-DONE, the stale flag, the context. -/
def State.applyDump (s : State) (h : Header) : State :=
  let r := s.catchUp.req
  let s := { s with wall := WallState.load h s.catchUp.buffer }
  let s := ((s.applyDeferred h.frame).post .dumpDone r.responder)
  let s := { s with ctl := { s.ctl with stale := false } }
  if r.missed then (s.setReq { r with missed := false }).beginCycle
  else (s.setReq { r with state := .idle, tries := 0, responder := none, header := none }).clearBuffer

/-- R138: the dump apply at the frame start that follows the entry to APPLY-PENDING. -/
def State.dumpApply (s : State) : State :=
  match s.catchUp.req.state, s.catchUp.req.header with
  | .applyPending, some h => s.applyDump h
  | _, _ => s

/-- R139: the requester context is aborted. -/
def State.abortRequester (s : State) : State :=
  (((s.withdraw .requester).setReq Requester.reset).clearBuffer).clearDeferred

/-! ### The responder (R140 to R144) -/

/-- R140: the station is eligible to offer a dump. -/
def State.eligible (s : State) : Bool :=
  s.ctl.role = .member && s.wall.valid && !s.ctl.stale && !s.catchingUp && s.catchUp.resp.state = .idle

/-- R140: a DUMP-REQUEST arrival. -/
def State.dumpRequestArrives (s : State) (sender requester : Station) : State :=
  if requester ≠ sender ∨ requester = s.own then s
  else if s.eligible then
    s.setResp { Responder.reset with state := .offering, requester := some sender, owed := some ⟨.dumpBegin, 0⟩ }
  else s

/-- R141: another station's DUMP-BEGIN for the same requester withdraws an offer, one that waits for its retry too (log 17),
and the context is cleared whole, of which the rule names the state and q (log 33); one under the own number is ignored
(R73; log 32). -/
def State.responderDumpBegin (s : State) (sender requester : Station) : State :=
  if s.catchUp.resp.state = .offering ∧ s.catchUp.resp.requester = some requester ∧ sender ≠ s.own then
    (s.withdraw .responder).setResp Responder.reset
  else s

/-- R141, R142, R144: the responder's attempt is delivered. -/
def State.responderDelivered (s : State) (kind : MsgKind) : State :=
  let r := s.catchUp.resp
  match kind with
  | .dumpBegin =>
    if r.endAfterBegin then
      s.setResp { r with state := .sending, cursor := 52, torn := true, endAfterBegin := false, owed := some ⟨.dumpEnd, 0⟩ }
    else s.setResp { r with state := .sending, cursor := 0, owed := some ⟨.dumpData, 0⟩ }
  | .dumpData =>
    s.setResp { r with cursor := r.cursor + 1, owed := some ⟨if r.cursor + 1 < 52 then .dumpData else .dumpEnd, 0⟩ }
  | _ => s.setResp Responder.reset

/-- R144: the responder at a change out of MEMBER. A DUMP-END already owed stays the one owed (log 16); a withdrawn offer
clears the context whole (log 33). -/
def State.endResponder (s : State) : State :=
  let r := s.catchUp.resp
  match r.state with
  | .idle => s
  | .offering =>
    if s.inAttempt .responder then s.setResp { r with endAfterBegin := true } else s.setResp Responder.reset
  | .sending =>
    if r.owed.map (·.kind) = some .dumpEnd then s.setResp { r with cursor := 52, torn := true }
    else (s.withdraw .responder).setResp { r with cursor := 52, torn := true, owed := some ⟨.dumpEnd, 0⟩ }

end Sys2Proof.Machine
end

