-- ==== Sys2Proof/Machine/Roles.lean ====
section
/-! DEFINITION. The Role Controller (chapter 6): changes of role and their hand-overs, founding, promotion, staleness, leaving
and detachment; with the beacon holder, which follows the role (R158). -/

namespace Sys2Proof.Machine

open Sys2Proof

/-! ### The beacon holder (R158) -/

/-- R158: a new beacon comes to be owed, or a renewal is marked on one in an attempt. -/
def State.oweBeacon (s : State) : State :=
  if s.inAttempt .beacon then { s with bus := { s.bus with renewal := true } }
  else { s with bus := { s.bus with beacon := some ⟨.beacon, 0⟩ } }

/-- R158: an owed beacon is withdrawn and a marked renewal cleared. -/
def State.withdrawBeacon (s : State) : State :=
  { s with bus := { s.bus.withdraw .beacon with beacon := none, renewal := false } }

/-- R158: the beacon of a frame start in a transmitting role. -/
def State.beaconRenewal (s : State) : State := if s.ctl.role.transmits then s.oweBeacon else s

/-! ### Changes of role (R114, R122) -/

/-- The role changes and ROLE-CHANGED is posted (R114). -/
def State.setRole (s : State) (r : Role) : State :=
  { s with ctl := { s.ctl with role := r } }.post .roleChanged none none none (some r)

/-- The founding wait becomes 0 (R117). -/
def State.restartWait (s : State) : State := { s with ctl := { s.ctl with foundingWait := 0 } }

/-- R122: the strike count, the tie count and the split latch at a change into or out of MEMBER. -/
def State.restartCounts (s : State) : State := { s with ctl := { s.ctl with strikes := 0, ties := 0, split := .armed } }

/-- The stale flag takes a value. -/
def State.setStale (s : State) (v : Bool) : State := { s with ctl := { s.ctl with stale := v } }

/-- The role becomes MEMBER (R118, R120, R121). -/
def State.becomeMember (s : State) : State := ((s.setRole .member).restartWait).restartCounts

/-- R122: the change out of MEMBER to ALIGN or LEAVING is handed on. -/
def State.leaveMember (s : State) : State := ((s.ceaseVoting.clearVerdicts).endResponder).restartCounts

/-- The stale move of a member: the role becomes ALIGN, with the hand-overs of R122 and a catch-up start (R124, R126). -/
def State.turnToAlign (s : State) : State :=
  ((((s.setRole .align).restartWait).leaveMember).catchUpStart)

/-! ### Entering OFFLINE or DETACHED (R130) -/

/-- Step 2 of R130: state-valid is cleared, and the output is 0 from this instant (R12, R14). -/
def State.clearValid (s : State) : State :=
  { s with
    wall := { s.wall with valid := false }
    pixel := { s.pixel with latched := { s.pixel.latched with showing := false }, rgb := Colour.black } }

/-- An attempt at entry to OFFLINE or DETACHED: a transmitted one completes unheeded, a reception is given up (R151). -/
def Attempt.giveUp : Attempt → Option Attempt
  | .transmitting t => some (.transmitting { t with withdrawn := true })
  | .receiving _ _ => none

/-- Step 7 of R130: the Bus Interface. What it drove in a window that has ended stands (R150). -/
def Bus.leave (b : Bus) : Bus :=
  { Bus.reset with attempt := b.attempt.bind Attempt.giveUp, beaconStart := b.beaconStart, driven := b.driven }

/-- Steps 2 to 7 of R130. -/
def State.emptyBlocks (s : State) (reason : Reason) : State :=
  let s := ((s.clearValid.freeLock).emptyEdits reason).clearPeers
  { s with catchUp := CatchUp.reset, bus := s.bus.leave }

/-- Step 1 of R130: the Role Controller's items; the FAREWELL is gone with its source (step 7). -/
def State.settleRole (s : State) (r : Role) : State :=
  let s := s.setRole r
  { s with ctl := { RoleControl.reset with role := r } }

/-- R130: the role becomes OFFLINE. -/
def State.goOffline (s : State) : State := (s.settleRole .offline).emptyBlocks .left

/-- R129, R130: the role becomes DETACHED with a reason; DETACHED is posted first. -/
def State.detach (s : State) (reason : Reason) : State :=
  ((s.post .detached none none (some reason)).settleRole .detached).emptyBlocks .detached

/-! ### The frame-start work of the Role Controller (R117 to R126) -/

/-- R7, R118: the station founds a wall. -/
def State.found (s : State) : State :=
  let s := s.becomeMember
  { s with wall := { WallState.default with valid := true } }

/-- R121: the founding wait reaches 32 in ALIGN. -/
def State.alignExpiry (s : State) : State :=
  if s.wall.valid then ((s.becomeMember).setStale false).abortRequester
  else (((((s.setRole .listen).restartWait).setStale false).abortRequester).freeLock).withdrawBeacon

/-- A LIVE entry reports MEMBER (R117). -/
def State.memberLive (s : State) : Bool := s.peerList.any fun x => x.2.liveMember

/-- What the founding wait brings at this frame start (R117). -/
inductive WaitEvent where
  | nothing | founding | alignExpiry
  deriving DecidableEq, Repr

/-- R117: the founding wait reaches 32 at this frame start, and by which role it acts. -/
def State.waitEvent (s : State) : WaitEvent :=
  if s.memberLive || s.ctl.foundingWait + 1 < 32 then .nothing
  else
    match s.ctl.role with
    | .listen => .founding
    | .align => .alignExpiry
    | .offline | .member | .leaving | .detached => .nothing

/-- R117, R118, R121: the founding wait at a frame start. -/
def State.waitWork (s : State) : State :=
  match s.waitEvent with
  | .founding => s.found
  | .alignExpiry => s.alignExpiry
  | .nothing =>
    if s.ctl.role = .listen ∨ s.ctl.role = .align then
      if s.memberLive then s.restartWait
      else { s with ctl := { s.ctl with foundingWait := s.ctl.foundingWait + 1 } }
    else s

/-- R120: the promotion test. -/
def State.promotes (s : State) : Bool :=
  s.ctl.role = .align && s.wall.valid && !s.ctl.stale && !s.catchingUp && s.timer.lock = .locked

/-- R120: promotion. -/
def State.promotion (s : State) : State := if s.promotes then s.becomeMember else s

/-- R124: a member turns stale on its second strike. -/
def State.turnStale (s : State) : State := ((s.setStale true).post .stale).turnToAlign

/-- R125: a tie. -/
def State.countTie (s : State) : State :=
  let s' := { s with ctl := { s.ctl with strikes := 0, ties := min 2 (s.ctl.ties + 1) } }
  if 2 ≤ s.ctl.ties + 1 ∧ s.ctl.split = .armed then
    { s' with ctl := { s'.ctl with split := .fired } }.post .versionSplit
  else s'

/-- R123: the verdicts of the ending frame, counted at a member. -/
def State.countVerdicts (s : State) (a d : Nat) : State :=
  if a + 1 < d then
    let s' := { s with ctl := { s.ctl with strikes := s.ctl.strikes + 1, ties := 0 } }
    if 2 ≤ s.ctl.strikes + 1 then s'.turnStale else s'
  else if 1 ≤ d ∧ d = a + 1 then s.countTie
  else if d = 0 then { s with ctl := { s.ctl with strikes := 0, ties := 0, split := .armed } }
  else { s with ctl := { s.ctl with strikes := 0, ties := 0 } }

/-- R86, R123: the verdicts are handed over and set to none; a member counts them. -/
def State.verdictWork (s : State) : State :=
  let s' := s.clearVerdicts
  if s.ctl.role = .member then s'.countVerdicts (s.verdicts .agree) (s.verdicts .differ) else s'

/-- R119: an adopt decided in LISTEN moves the role to ALIGN. -/
def State.listenToAlign (s : State) : State := (((s.setRole .align).restartWait).catchUpStart).oweBeacon

/-- R126: a renumber, by the role at the hand-over. -/
def State.renumberRole (s : State) : State :=
  match s.ctl.role with
  | .member => (s.setStale true).turnToAlign
  | .align => (s.setStale true).catchUpStart
  | .leaving => s.setStale true
  | .offline | .listen | .detached => s

/-! ### LEAVE and JOIN (R116, R127) -/

/-- R127: the change to LEAVING, with its hand-overs in order. -/
def State.startLeaving (s : State) : State :=
  let member := s.ctl.role = .member
  let s := s.setRole .leaving
  let s := if member then s.leaveMember else s
  let s := s.leaveOwnEdits
  let s := if s.catchingUp then s.abortRequester else s
  { s with ctl := { s.ctl with farewell := some ⟨.farewell, 0⟩ } }

/-- R90: the Frame Timer starts, if it is stopped. -/
def Timer.start (t : Timer) : Timer :=
  if t.running then t else { t with running := true, line := 0, pixel := 0, frame := 0, correction := 0 }

/-- R116, R176: a JOIN that is carried out. The receiver waits for an idle gap (R151); the lock and the beacon holder are as
every entry to LISTEN leaves them (R103, R158). -/
def State.join (s : State) : State :=
  let s := { s with cfg := { s.cfg with frozen := true }, timer := s.timer.start, bus := { s.bus with gapSeen := false } }
  (((s.setRole .listen).restartWait).freeLock).withdrawBeacon

end Sys2Proof.Machine
end

