-- ==== Sys2Proof/Machine/PixelPath.lean ====
section
/-! DEFINITION. The Pixel Path (chapter 9): line fetches, the scanned pixel, the latch of a frame start, and the scan rows of
the table. -/

namespace Sys2Proof.Machine

open Sys2Proof

/-! ### Buffers and fetches (R163, R164) -/

/-- The buffer of a name. -/
def PixelPath.buffer (p : PixelPath) : BufferName → LineBuffer
  | .a => p.bufferA
  | .b => p.bufferB

/-- The buffer of a name changes. -/
def PixelPath.setBuffer (p : PixelPath) (n : BufferName) (x : LineBuffer) : PixelPath :=
  match n with
  | .a => { p with bufferA := x }
  | .b => { p with bufferB := x }

/-- The buffer that holds an active line. -/
def PixelPath.holding (p : PixelPath) (line : Nat) : Option BufferName :=
  if p.bufferA.line = some line then some .a else if p.bufferB.line = some line then some .b else none

/-- Answers still outstanding for the fetch in progress. -/
def PixelPath.outstanding (p : PixelPath) : Nat :=
  match p.fetch with
  | some f => f.issued - f.answered
  | none => 0

/-- The fetch in progress ends, and the queued fetch begins (R164). -/
def PixelPath.nextFetch (p : PixelPath) : PixelPath :=
  { p with fetch := p.queued.map fun name => ⟨name, 0, 0⟩, queued := none }

/-- The fetch in progress is cut: its requests are no longer issued, its outstanding answers are to be discarded, and the
queued fetch begins (R164). -/
def PixelPath.cut (p : PixelPath) : PixelPath := { p with givenUp := p.givenUp + p.outstanding }.nextFetch

/-- The buffer not holding the line being scanned; the first when neither holds it (R164; log 20). -/
def PixelPath.spare (p : PixelPath) (scanned : Nat) : BufferName :=
  if p.bufferA.line = some scanned then .b else .a

/-- The active line whose fetch is due at the start of a line (R164). -/
def State.dueFetch (s : State) (line : Nat) : Option Nat :=
  if line + 1 < s.cfg.h then some (line + 1)
  else if line + 1 = frameLines s.cfg s.timer then some 0
  else none

/-- The fetch due at the position of the scan, of an active line, is issued into a buffer: begun at once, or queued
(R164). -/
def State.issueFetch (s : State) (n : BufferName) (y : Nat) : State :=
  let p := { s.pixel.setBuffer n ⟨some y, s.wall.panX, s.wall.panY, List.replicate s.cfg.w none⟩ with issuedHere := true }
  { s with pixel := if p.fetch.isSome then { p with queued := some n } else { p with fetch := some ⟨n, 0, 0⟩ } }

/-! ### The scan (R91, R167, R168) -/

/-- The scan stands at a position or before it in the frame (log 5). -/
def State.reaches (s : State) (line pixel : Nat) : Bool :=
  s.timer.running && (s.timer.line < line || (s.timer.line = line && s.timer.pixel ≤ pixel))

/-- The panel's colour. -/
def State.show (s : State) (c : Colour) : State := { s with pixel := { s.pixel with rgb := c } }

/-- The scan comes to a position. Where it stays, what has been done there stays (log 37); at another one nothing has been done
yet, and the output is 0 until an active pixel is output (R167; log 31). -/
def PixelPath.atPosition (p : PixelPath) (stays : Bool) : PixelPath :=
  { p with
    rgb := if stays then p.rgb else Colour.black
    issuedHere := stays && p.issuedHere
    requestedHere := stays && p.requestedHere
    scannedHere := stays && p.scannedHere }

/-- The scan comes to a position, or stays at it. -/
def State.scanTo (s : State) (line pixel : Nat) : State :=
  { s with
    timer := { s.timer with line := line, pixel := pixel }
    pixel := s.pixel.atPosition (s.timer.line = line ∧ s.timer.pixel = pixel) }

/-- The index in a slot of the buffer that holds a line. -/
def PixelPath.indexAt (p : PixelPath) (line pixel : Nat) : Option Byte :=
  match p.holding line with
  | some n => (p.buffer n).slots[pixel]?.join
  | none => none

/-- R168: an underrun: PIXEL-UNDERRUN at the first of a frame. -/
def State.underrun (s : State) : State :=
  if s.pixel.underrun then s
  else { s with pixel := { s.pixel with underrun := true } }.post .pixelUnderrun

/-- R167: the colour of an active pixel. -/
def State.drawPixel (s : State) (line pixel : Nat) : State :=
  if s.pixel.latched.showing then
    match s.pixel.indexAt line pixel with
    | some index => s.show (outputColour s.pixel.latched index)
    | none => (s.show Colour.black).underrun
  else s.show Colour.black

/-- R167: the output of the active pixel at the position of the scan, made once: a slot that is filled after its pixel has been
scanned is not shown later. -/
def State.outputPixel (s : State) (line pixel : Nat) : State :=
  if s.pixel.scannedHere then s
  else ({ s with pixel := { s.pixel with scannedHere := true } }).drawPixel line pixel

/-! ### The latch of a frame start (R13, R14, R166, R168) -/

/-- R14: the show decision. -/
def State.showDecision (s : State) : Bool := s.ctl.role.transmits && s.wall.valid

/-- R13: the latched copy of the wall state. -/
def State.latch (s : State) : Latched :=
  { palette := s.wall.palette, panX := s.wall.panX, panY := s.wall.panY, level := s.wall.level, blank := s.wall.blank,
    showing := s.showDecision }

/-- R166: the line-0 fetch of a pan that is no longer the latched one is issued again, and begins at once. -/
def PixelPath.reissue (p : PixelPath) (width : Nat) : PixelPath :=
  match p.holding 0 with
  | some n =>
    if (p.buffer n).panX = p.latched.panX ∧ (p.buffer n).panY = p.latched.panY then p
    else
      { p.setBuffer n ⟨some 0, p.latched.panX, p.latched.panY, List.replicate width none⟩ with
        fetch := some ⟨n, 0, 0⟩, queued := none, givenUp := p.givenUp + p.outstanding }
  | none => p

/-- The end of a frame start: the latch, the line-0 fetch, the underrun latch; the first pixel is not yet scanned. -/
def State.latchFrame (s : State) : State :=
  let p := { s.pixel.atPosition false with latched := s.latch, underrun := false }
  { s with pixel := p.reissue s.cfg.w }

/-! ### The rows -/

/-- The fetch of an active line is issued at the start of a line, once (R164; log 37). -/
def State.issueAt (s : State) (line y : Nat) : State :=
  let t := s.scanTo line 0
  if t.pixel.issuedHere then t else t.issueFetch (s.pixel.spare line) y

/-- FETCH_ISSUE: the scan is at the start of a line, and the fetch due there is issued (R164). -/
def execFetchIssue (line : Nat) (s : State) : Host.Outcome State Fault Refusal :=
  match s.dueFetch line with
  | some y => .next (if s.reaches line 0 then s.issueAt line y else s)
  | none => .next s

/-- The next read request of the fetch in progress: the fetch with the request counted, and the address (R164, R165); none when
all W are issued. -/
def State.nextRead (s : State) : Option (Fetch × BitVec 24) :=
  match s.pixel.fetch with
  | some f =>
    let b := s.pixel.buffer f.buffer
    match b.line with
    | some y =>
      if s.timer.running ∧ f.issued < s.cfg.w then
        some ({ f with issued := f.issued + 1 }, readAddress s.cfg b.panX b.panY f.issued y)
      else none
    | none => none
  | none => none

/-- R164: one pixel clock issues one read request of the fetch in progress (log 37). At a clock that issues none the port keeps the
address of the last request (log 34). -/
def State.issueRead (s : State) : State :=
  if s.pixel.requestedHere then s
  else
    match s.nextRead with
    | some (f, address) =>
      { s with pixel := { s.pixel with fetch := some f, request := some address, requestedHere := true } }
    | none => s

/-- The scan position one pixel clock on; none at the last clock of the last line, where the frame start follows (R91,
R94). -/
def State.nextPosition (s : State) : Option (Nat × Nat) :=
  if s.timer.pixel + 1 < lineClocks s.cfg s.timer s.timer.line then some (s.timer.line, s.timer.pixel + 1)
  else if s.timer.line + 1 < frameLines s.cfg s.timer then some (s.timer.line + 1, 0)
  else none

/-- R164: an answer fills the next slot of the fetching buffer. -/
def PixelPath.fill (p : PixelPath) (f : Fetch) (index : Byte) (width : Nat) : PixelPath :=
  let b := p.buffer f.buffer
  let p := p.setBuffer f.buffer { b with slots := b.slots.set f.answered (some index) }
  if f.answered + 1 = width then p.nextFetch
  else { p with fetch := some { f with answered := f.answered + 1 } }

/-- R164: an answer of the canvas memory: discarded if its fetch was cut, else the next slot's. -/
def State.takeAnswer (s : State) (index : Byte) : State :=
  if 0 < s.pixel.givenUp then { s with pixel := { s.pixel with givenUp := s.pixel.givenUp - 1 } }
  else
    match s.pixel.fetch with
    | some f => if f.answered < f.issued then { s with pixel := s.pixel.fill f index s.cfg.w } else s
    | none => s

/-- READ_ANSWER: an answer of the canvas memory (R164). -/
def execReadAnswer (index : Byte) (s : State) : Host.Outcome State Fault Refusal := .next (s.takeAnswer index)

/-- The active line of the fetch in progress. -/
def PixelPath.fetchLine (p : PixelPath) : Option Nat :=
  match p.fetch with
  | some f => (p.buffer f.buffer).line
  | none => none

/-- The fetch in progress is cut when the scan leaves pixel W − 1 of its own line (R164). -/
def State.clockCut (s : State) : State :=
  if s.timer.pixel = s.cfg.w ∧ s.pixel.fetchLine = some s.timer.line then { s with pixel := s.pixel.cut } else s

/-- The next pixel clock of the scan, when a read request goes out at it. -/
def State.requestNextClock (s : State) : State :=
  match s.nextPosition with
  | some (line, pixel) =>
    let t := (s.scanTo line pixel).clockCut
    if t.nextRead.isSome then t.issueRead else s
  | none => s

/-- READ_REQUEST_ISSUE: one pixel clock of a fetch in progress (R164, R165). Where the clock of the scan position has issued its
request, the row is the next pixel clock, to which the scan moves on (log 5). -/
def execReadRequestIssue (s : State) : Host.Outcome State Fault Refusal :=
  .next (if s.pixel.requestedHere then s.requestNextClock else s.issueRead)

/-- FETCH_CUT: the scan leaves pixel W − 1 of the own line of the fetch in progress (R164). Outside the active area the
output is 0 (R167). -/
def execFetchCut (s : State) : Host.Outcome State Fault Refusal :=
  match s.pixel.fetchLine with
  | some y =>
    .next (if s.reaches y s.cfg.w then { s with pixel := s.pixel.cut }.scanTo y s.cfg.w else s)
  | none => .next s

/-- ACTIVE_PIXEL_SCAN: the scan reaches an active pixel, which is output (R167, R168). -/
def execActivePixelScan (line pixel : Nat) (s : State) : Host.Outcome State Fault Refusal :=
  .next (if activePixel s.cfg line pixel ∧ s.reaches line pixel then (s.scanTo line pixel).outputPixel line pixel else s)

end Sys2Proof.Machine
end

