-- ==== Sys2Proof/Machine/TileBus.lean ====
section
/-! DEFINITION. The Bus Interface (chapter 8): the transmit scheduler, attempts and their completions, receptions. -/

namespace Sys2Proof.Machine

open Sys2Proof

/-! ### The transmit scheduler (R152, R153) -/

/-- The owed messages in source order (R152). -/
def State.owedMessages (s : State) : List (Source × Owed) :=
  (s.bus.beacon.map fun o => (Source.beacon, o)).toList
  ++ (s.ctl.farewell.map fun o => (Source.farewell, o)).toList
  ++ (s.edit.refusals.head?.map fun r => (Source.refusal, Owed.mk .refuse r.voids)).toList
  ++ (s.entries.filterMap fun x => x.2.owed.map fun o => (Source.entry x.1, o))
  ++ (s.edit.outcomes.filterMap fun x => x.owed.map fun o => (Source.outcome x.id, o))
  ++ (s.catchUp.req.owed.map fun o => (Source.requester, o)).toList
  ++ (s.catchUp.resp.owed.map fun o => (Source.responder, o)).toList

/-- The message is offerable: ACCEPT and REFUSE only while the role is MEMBER (R153). -/
def State.offerable (s : State) (o : Owed) : Bool :=
  s.ctl.role.transmits && ((o.kind != .accept && o.kind != .refuse) || s.ctl.role = .member)

/-- The first of the lowest rank (R153). -/
def lowestRank (xs : List (Source × Owed)) : Option (Source × Owed) :=
  xs.foldl (fun best x => match best with
    | none => some x
    | some y => if x.2.kind.rank < y.2.kind.rank then some x else some y) none

/-- The message the station offers at an idle bus (R153). -/
def State.offered (s : State) : Option (Source × Owed) :=
  lowestRank (s.owedMessages.filter fun x => s.offerable x.2)

/-! ### Composition (R154, R159) -/

/-- The beacon of this instant (R159). -/
def State.fillBeacon (s : State) : Beacon :=
  { role := s.ctl.role.code, frame := s.timer.frame, version := s.wall.version, locked := s.timer.lock = .locked,
    lineLength := s.cfg.lineLength, lines := s.cfg.lines, stampFrame := s.bus.beaconStart.frame,
    stampPhase := BitVec.ofNat 32 s.bus.beaconStart.phase, stampValid := s.bus.startValid }

/-- The live palette as a list of records, entry 0 first. -/
def State.paletteRecords (s : State) : List Colour := s.wall.palette.toList

/-- The contents of an entry's message. -/
def EditEntry.compose (e : EditEntry) : MsgKind → Option Message
  | .propose => some (.propose e.id e.takeFrame e.target)
  | .data =>
    let j := e.cursor.getD 0
    some (.data e.id (BitVec.ofNat 8 j) ((fragmentOf e.staged j).map recordOr))
  | .take => some (.take e.id)
  | .accept => some (.accept e.id)
  | .query => some (.query e.id)
  | _ => none

/-- The contents of an outcome entry's message. -/
def OutcomeEntry.compose (o : OutcomeEntry) : MsgKind → Option Message
  | .drop => some (.drop o.id ((o.reason.map Reason.code).getD 0))
  | .outcome => some (.outcome o.id o.taken)
  | _ => none

/-- The contents of the responder's message, filled from the live state (R141, R142). -/
def State.composeDump (s : State) (q : Station) : MsgKind → Option Message
  | .dumpBegin => some (.dumpBegin q ⟨s.timer.frame, s.wall.version, s.wall.panX, s.wall.panY, s.wall.level, s.wall.blank⟩)
  | .dumpData =>
    let j := s.catchUp.resp.cursor
    some (.dumpData q (BitVec.ofNat 8 j) (fragmentOf s.paletteRecords j))
  | .dumpEnd => some (.dumpEnd q s.catchUp.resp.torn (checkValue 0 s.paletteRecords))
  | _ => none

/-- A message is composed at the start of an attempt (R154). -/
def State.compose (s : State) (src : Source) (kind : MsgKind) : Option Message :=
  match src with
  | .beacon => some (.beacon s.fillBeacon)
  | .farewell => some (.farewell s.own)
  | .refusal => s.edit.refusals.head?.map fun r => .refuse r.id r.reason.code
  | .entry i => (s.entryAt i).bind fun e => e.compose kind
  | .outcome id => (s.findOutcome id).bind fun o => o.compose kind
  | .requester => some (.dumpRequest s.own)
  | .responder => s.catchUp.resp.requester.bind fun q => s.composeDump q kind

/-! ### The start of an attempt (R141, R143, R146, R160) -/

/-- The torn window opens, with the flag clear, at the start of each DUMP-BEGIN attempt (R141, R143). -/
def Responder.openWindow (r : Responder) : Responder := { r with torn := false, windowOpen := true }

/-- The station's attempt is in flight: its number is the void count plus one (R148), its start time a beacon's candidate
(R160). -/
def State.beginAttempt (s : State) (src : Source) (o : Owed) (m : Message) : State :=
  let s := { s with bus := { s.bus with
    attempt := some (.transmitting ⟨src, m, o.voids + 1, s.time, true, false⟩), gapSeen := true, driven := .nothing } }
  if o.kind = .dumpBegin then s.setResp s.catchUp.resp.openWindow else s

/-- The station receives an attempt from its start-of-message: the receive time is the own time (R81). -/
def State.beginReception (s : State) : State :=
  { s with bus := { s.bus with attempt := some (.receiving s.time true), gapSeen := true, driven := .nothing } }

/-- R146: the station contends with the rivals' messages; it loses to one that is dominant first, and receives. -/
def State.contend (s : State) (rivals : List (List Byte)) (src : Source) (o : Owed) (m : Message) : State :=
  if rivals.any fun r => dominates r (m.bytes s.own) then s.beginReception else s.beginAttempt src o m

/-- R146: at an idle bus the station begins its offered message, if it has one. -/
def State.startAttempt (s : State) (rivals : List (List Byte)) : State :=
  match s.bus.attempt, s.offered with
  | none, some (src, o) =>
    match s.compose src o.kind with
    | some m => s.contend rivals src o m
    | none => s
  | _, _ => s

/-- ATTEMPT_START: an idle bus at which the station begins, with the messages of those that begin with it (R146). -/
def execAttemptStart (rivals : List (List Byte)) (s : State) : Host.Outcome State Fault Refusal :=
  .next (s.startAttempt rivals)

/-! ### Completion (R148, R149, R155, R156, R158, R160) -/

/-- The void count of an owed message rises by one. -/
def Owed.voided (o : Owed) : Owed := { o with voids := o.voids + 1 }

/-- The refusal list with its head's void count raised. -/
def voidHead : List RefusalEntry → List RefusalEntry
  | [] => []
  | r :: rest => { r with voids := r.voids + 1 } :: rest

/-- R158: the beacon holder after a void that is retried: a marked renewal replaces the beacon. -/
def Bus.voidBeacon (b : Bus) : Bus :=
  { b with beacon := if b.renewal then some ⟨.beacon, 0⟩ else b.beacon.map Owed.voided, renewal := false }

/-- R158: the beacon holder after the end of a beacon's attempts: a marked renewal is owed. -/
def Bus.endBeacon (b : Bus) : Bus := { b with beacon := if b.renewal then some ⟨.beacon, 0⟩ else none, renewal := false }

/-- R148: a void attempt that is retried: the message stays owed with its void count raised. -/
def State.sourceVoided (s : State) : Source → State
  | .beacon => { s with bus := s.bus.voidBeacon }
  | .farewell => { s with ctl := { s.ctl with farewell := s.ctl.farewell.map Owed.voided } }
  | .refusal => { s with edit := { s.edit with refusals := voidHead s.edit.refusals } }
  | .entry i =>
    match s.entryAt i with
    | some e => s.putEntry i (some { e with owed := e.owed.map Owed.voided })
    | none => s
  | .outcome id => s.setOutcome id fun o => { o with owed := o.owed.map Owed.voided }
  | .requester => s.setReq { s.catchUp.req with owed := s.catchUp.req.owed.map Owed.voided }
  | .responder => s.setResp { s.catchUp.resp with owed := s.catchUp.resp.owed.map Owed.voided }

/-- The head of the refusal list is removed (R25). -/
def State.endRefusal (s : State) : State := { s with edit := { s.edit with refusals := s.edit.refusals.tail } }

/-- R156: a delivered completion, heard or unheard, is handed to the source. -/
def State.sourceDelivered (s : State) (t : Transmission) : State :=
  match t.source with
  | .beacon => { s with bus := { s.bus.endBeacon with beaconStart := t.start, startValid := t.usable } }
  | .farewell => s.goOffline
  | .refusal => s.endRefusal
  | .entry i =>
    match s.entryAt i with
    | some e => s.entryDelivered i e t.message.kind
    | none => s
  | .outcome id => s.setOutcome id fun o => { o with owed := none }
  | .requester => s.requestDelivered
  | .responder => s.responderDelivered t.message.kind

/-- R156: an abandonment is handed to the source. After a DUMP-DATA's the responder context is cleared whole, of which R142
names the state alone (log 33). -/
def State.sourceAbandoned (s : State) (t : Transmission) : State :=
  match t.source with
  | .beacon => { s with bus := s.bus.endBeacon }
  | .farewell => s.goOffline
  | .refusal => s.endRefusal
  | .entry i =>
    match s.entryAt i with
    | some e => s.entryAbandoned i e t.message.kind
    | none => s
  | .outcome id => s.setOutcome id fun o => { o with owed := none }
  | .requester => s.failedTry
  | .responder => s.setResp Responder.reset

/-- The edit id a message carries (R149). -/
def messageId : Message → Option EditId
  | .take id | .drop id _ | .outcome id _ | .accept id | .refuse id _ | .propose id _ _ | .query id | .data id _ _ => some id
  | .beacon _ | .farewell _ | .dumpRequest _ | .dumpBegin _ _ | .dumpEnd _ _ _ | .dumpData _ _ _ => none

/-- The requester a dump message names (R149; log 19). -/
def messageRequester : Message → Option Station
  | .dumpRequest q | .dumpBegin q _ | .dumpEnd q _ _ | .dumpData q _ _ => some q
  | .take _ | .drop _ _ | .outcome _ _ | .beacon _ | .accept _ | .refuse _ _ | .propose _ _ _ | .query _ | .farewell _
  | .data _ _ _ => none

/-- R149: the fourth void of a message: TX-ABANDONED, the streak, detachment at 4, else the source. -/
def State.abandon (s : State) (t : Transmission) : State :=
  let s := s.post .txAbandoned (messageRequester t.message) (messageId t.message)
  let s := { s with bus := { s.bus with abandonStreak := s.bus.abandonStreak + 1 } }
  if 4 ≤ s.bus.abandonStreak ∧ s.ctl.role.receives then s.detach .transmit
  else if t.withdrawn then s else s.sourceAbandoned t

/-- The attempt in flight ends, with what the station drives in its window (R147, R148). -/
def State.endAttempt (s : State) (d : WindowDrive) : State := { s with bus := { s.bus with attempt := none, driven := d } }

/-- R147: the result of the window, with the error that the transmitter signals itself on a read-back fault (R148). -/
def windowResult (w : Window) (fault : Bool) : Window := if fault then .void else w

/-- R148: what the transmitter drives in the window of its own message: an error on a read-back fault, else nothing. -/
def ownDrive (fault : Bool) : WindowDrive := if fault then .error else .nothing

/-- R148: the end of the station's own attempt, by the result of the window. -/
def State.completeAttempt (s : State) (t : Transmission) (w : Window) : State :=
  match w with
  | .heard | .unheard =>
    let s := { s with bus := { s.bus with abandonStreak := 0 } }
    if t.withdrawn then s else s.sourceDelivered t
  | .void =>
    if t.number < 4 then (if t.withdrawn then s else s.sourceVoided t.source) else s.abandon t

/-- ATTEMPT_COMPLETION: the station's own attempt ends with the result of the window; a fault in what the transmitter read
back of its message makes it void (R147, R148). -/
def execAttemptCompletion (c : Completion) (s : State) : Host.Outcome State Fault Refusal :=
  .next (match s.bus.attempt with
    | some (.transmitting t) =>
      let fault := readBackFault (t.message.bytes s.own) c.readBack
      (s.endAttempt (ownDrive fault)).completeAttempt t (windowResult c.window fault)
    | _ => s)

/-! ### Receptions (R81, R147, R150, R151) -/

/-- RECEPTION_START: another station's start-of-message (R81). A station that has not observed an idle gap since its entry
to LISTEN does not receive it (R147, R151). -/
def execReceptionStart (s : State) : Host.Outcome State Fault Refusal :=
  .next (if s.ctl.role.receives ∧ s.bus.gapSeen ∧ s.bus.attempt = none then s.beginReception else s)

/-- IDLE_GAP: a receiver newly come into LISTEN observes its first idle gap (R151). -/
def execIdleGap (s : State) : Host.Outcome State Fault Refusal :=
  .next (if s.ctl.role.receives then { s with bus := { s.bus with gapSeen := true } } else s)

/-- The receive time of the reception in progress, in a role that receives. -/
def State.reception (s : State) : Option (Time × Bool) :=
  if s.ctl.role.receives then
    match s.bus.attempt with
    | some (.receiving time usable) => some (time, usable)
    | _ => none
  else none

/-- A delivered message is a good reception: the station acknowledges it (R147), and the corrupt streak returns to 0
(R150). -/
def State.goodReception (s : State) : State :=
  { s with bus := { s.bus with attempt := none, corruptStreak := 0, driven := .acknowledgment } }

/-- A delivered message that this station received reaches a block (R147, R162); one it did not receive is no arrival. -/
def State.arrive (s : State) (f : State → State) : State :=
  match s.reception with
  | some _ => f s.goodReception
  | none => s

/-- R147, R150: a reception this station finds corrupt: it signals an error; the sixteenth in a row detaches it. -/
def State.corrupt (s : State) : State :=
  let s := s.endAttempt .error
  let s := { s with bus := { s.bus with corruptStreak := s.bus.corruptStreak + 1 } }
  if 16 ≤ s.bus.corruptStreak then s.detach .receive else s

/-- CORRUPT_RECEPTION: a reception this station finds corrupt (R147, R150). -/
def execCorruptReception (s : State) : Host.Outcome State Fault Refusal :=
  .next (if s.reception.isSome then s.corrupt else s)

/-- VOID_RECEPTION: a message that this station found good and acknowledged, voided by another station's error; the streak is
unchanged (R147, R150). -/
def execVoidReception (s : State) : Host.Outcome State Fault Refusal :=
  .next (if s.reception.isSome then s.endAttempt .acknowledgment else s)

/-- MESSAGE_DISCARDED: a delivered message that reaches no block, a good reception (R150, R186). -/
def execMessageDiscarded (_bytes : List Byte) (s : State) : Host.Outcome State Fault Refusal := .next (s.arrive id)

end Sys2Proof.Machine
end

