-- ==== Sys2Proof/Machine/Arrivals.lean ====
section
/-! DEFINITION. The arrivals of tile-bus messages, each handed to the blocks that own its kind (R162). -/

namespace Sys2Proof.Machine

open Sys2Proof

/-- R73, R74: a beacon: one under the own number detaches the station; another goes to the Peer Table with its receive
time. -/
def State.receiveBeacon (s : State) (sender : Station) (b : Beacon) (time : Time) (usable : Bool) : State :=
  if sender = s.own then s.detach .duplicate else s.beaconArrives sender b time usable

/-- BEACON_ARRIVAL (R73 to R76). -/
def execBeaconArrival (sender : Station) (beacon : Beacon) (s : State) : Host.Outcome State Fault Refusal :=
  .next (match s.reception with
    | some (time, usable) => s.goodReception.receiveBeacon sender beacon time usable
    | none => s)

/-- FAREWELL_ARRIVAL (R78). -/
def execFarewellArrival (sender station : Station) (s : State) : Host.Outcome State Fault Refusal :=
  .next (s.arrive fun s => s.farewellArrives sender station)

/-- PROPOSE_ARRIVAL (R29 to R35). -/
def execProposeArrival (sender : Station) (id : EditId) (takeFrame : FrameNo) (target : Target) (s : State) :
    Host.Outcome State Fault Refusal :=
  .next (s.arrive fun s => s.proposeArrives sender id takeFrame target)

/-- DATA_ARRIVAL (R57, R58). -/
def execDataArrival (sender : Station) (id : EditId) (fragment : Byte) (records : List Colour) (s : State) :
    Host.Outcome State Fault Refusal :=
  .next (s.arrive fun s => s.dataArrives sender id fragment.toNat records)

/-- ACCEPT_ARRIVAL (R49). -/
def execAcceptArrival (sender : Station) (id : EditId) (s : State) : Host.Outcome State Fault Refusal :=
  .next (s.arrive fun s => s.acceptArrives sender id)

/-- REFUSE_ARRIVAL (R50): the reason it carries plays no part at the proposer. -/
def execRefuseArrival (sender : Station) (id : EditId) (_reason : Byte) (s : State) : Host.Outcome State Fault Refusal :=
  .next (s.arrive fun s => s.refuseArrives sender id)

/-- TAKE_ARRIVAL (R61, R62). -/
def execTakeArrival (sender : Station) (id : EditId) (s : State) : Host.Outcome State Fault Refusal :=
  .next (s.arrive fun s => s.takeArrives sender id)

/-- DROP_ARRIVAL (R63): the reason it carries does not alter the reason posted. -/
def execDropArrival (sender : Station) (id : EditId) (_reason : Byte) (s : State) : Host.Outcome State Fault Refusal :=
  .next (s.arrive fun s => s.dropArrives sender id)

/-- QUERY_ARRIVAL (R66). -/
def execQueryArrival (sender : Station) (id : EditId) (s : State) : Host.Outcome State Fault Refusal :=
  .next (s.arrive fun s => s.queryArrives sender id)

/-- OUTCOME_ARRIVAL (R67, R68). -/
def execOutcomeArrival (sender : Station) (id : EditId) (taken : Bool) (s : State) : Host.Outcome State Fault Refusal :=
  .next (s.arrive fun s => s.outcomeArrives sender id taken)

/-- DUMP_REQUEST_ARRIVAL (R140). -/
def execDumpRequestArrival (sender requester : Station) (s : State) : Host.Outcome State Fault Refusal :=
  .next (s.arrive fun s => s.dumpRequestArrives sender requester)

/-- DUMP_BEGIN_ARRIVAL: the requester context (R133) and the responder context (R141). -/
def execDumpBeginArrival (sender requester : Station) (header : Header) (s : State) : Host.Outcome State Fault Refusal :=
  .next (s.arrive fun s => (s.requesterDumpBegin sender requester header).responderDumpBegin sender requester)

/-- DUMP_DATA_ARRIVAL (R134). -/
def execDumpDataArrival (sender requester : Station) (fragment : Byte) (records : List Colour) (s : State) :
    Host.Outcome State Fault Refusal :=
  .next (s.arrive fun s => s.dumpDataArrives sender requester fragment.toNat records)

/-- DUMP_END_ARRIVAL (R135). -/
def execDumpEndArrival (sender requester : Station) (torn : Bool) (check : Half) (s : State) :
    Host.Outcome State Fault Refusal :=
  .next (s.arrive fun s => s.dumpEndArrives sender requester torn check)

end Sys2Proof.Machine
end

