-- ==== Sys2Proof/Config.lean ====
section
/-! DEFINITION. The model's free values: choices and values that the spec leaves open and nothing constrains. -/

namespace Sys2Proof

/-- FREE VALUE (log 4): the order of the blocks' work at a frame start that the scan itself raises on an empty queue, one
choice for each count. R41, R88, R112, R120, R138 and R139 leave it open; nothing says which order it is. DESIGN CHOICE,
safe. -/
opaque Config.freeFrameOrder : Nat → List FrameWork

/-- FREE VALUE (log 27): the byte that carries a response code. R185 gives a response frame one byte for it and its code
table does not state the values. DESIGN CHOICE, safe. -/
opaque Config.responseCodeByte : ResponseCode → Byte

end Sys2Proof
end

