-- ==== Sys2Proof/Machine/Flags.lean ====
section
/-! DEFINITION. The signals and flag bytes that are computed from the state: the interrupt line (R184), the panel's timing
signals (R169), the payloads of the responses with their flag bytes and codes (R177, R178, R183, R185). -/

namespace Sys2Proof.Machine

open Sys2Proof

/-! ### Lines -/

/-- The interrupt line: asserted while the event queue holds an entry (R184). -/
def State.interrupt (s : State) : Bool := !s.events.isEmpty

/-- The frame pulse: every clock of line 0 (R169). -/
def State.framePulse (s : State) : Bool := s.timer.running && s.timer.line = 0

/-- The line pulse: the last L − W clocks of every line, or every clock of a shorter line (R169). -/
def State.linePulse (s : State) : Bool :=
  s.timer.running && lineClocks s.cfg s.timer s.timer.line - (s.cfg.l - s.cfg.w) ≤ s.timer.pixel

/-- Data-enable: every active pixel (R169). -/
def State.dataEnable (s : State) : Bool := s.timer.running && activePixel s.cfg s.timer.line s.timer.pixel

/-! ### Codes of R185 -/

/-- The code of a lock status. -/
def Lock.code : Lock → Byte
  | .free => 0 | .settling => 1 | .locked => 2

/-- The code of a peer state. -/
def PeerState.code : PeerState → Byte
  | .absent => 0 | .heard => 1 | .live => 2 | .silent => 3 | .incompatible => 4

/-- The code of a verdict. -/
def Verdict.code : Verdict → Byte
  | .none => 0 | .agree => 1 | .differ => 2

/-- The code of a holding role. -/
def Holding.code : Holding → Byte
  | .own => 0 | .voter => 1 | .observer => 2

/-- The code of an entry state. -/
def EditState.code : EditState → Byte
  | .sending => 0 | .awaiting => 1 | .collecting => 2 | .accepted => 3 | .complete => 4 | .taken => 5 | .inDoubt => 6

/-- The code of a response reason. -/
def ResponseReason.code : ResponseReason → Byte
  | .frozen => 1 | .state => 2 | .invalid => 3 | .notMember => 4 | .full => 5 | .noRoom => 6 | .conflict => 7

/-- The code of an event kind. -/
def EventKind.code : EventKind → Byte
  | .peerLive => 1 | .peerSilent => 2 | .peerIncompatible => 3 | .peerLeft => 4 | .roleChanged => 5 | .locked => 6
  | .lockLost => 7 | .renumbered => 8 | .trimLimit => 9 | .editTaken => 10 | .editDropped => 11 | .takeLate => 12
  | .stale => 13 | .versionSplit => 14 | .dumpDone => 15 | .dumpFailed => 16 | .txAbandoned => 17 | .detached => 18
  | .pixelUnderrun => 19

/-- The code of an offset's class: absent 0, value 1, FAR-AHEAD 2, FAR-BEHIND 3. -/
def offsetCode : Option Offset → Byte
  | none => 0
  | some o => match o.value with | .value _ => 1 | .farAhead => 2 | .farBehind => 3

/-! ### Payloads -/

/-- The eight bytes of a signed value. -/
def bytes8 (x : Int) : List Byte :=
  let w := BitVec.ofInt 64 x
  bytes4 (w.extractLsb' 32 32) ++ bytes4 (w.extractLsb' 0 32)

/-- The eight bytes of a time: frame, then phase. -/
def Time.bytes (t : Time) : List Byte := bytes4 t.frame ++ bytes4 (BitVec.ofNat 32 t.phase)

/-- A set of numbers as a bit set: bit x for each number x of the list. -/
def bitSet (w : Nat) (xs : List Nat) : BitVec w := xs.foldr (fun x bits => BitVec.twoPow w x ||| bits) 0

/-- The 14 bytes of STATUS (R177, R185). -/
def State.statusPayload (s : State) : List Byte :=
  [s.ctl.role.code, s.timer.lock.code] ++ bytes4 s.timer.frame ++ bytes2 s.wall.version
    ++ [flagBits s.wall.valid s.ctl.stale s.cfg.valid s.cfg.frozen false] ++ bytes2 (BitVec.ofNat 16 s.timer.trim.toNat)
    ++ [BitVec.ofNat 8 s.liveCount, BitVec.ofNat 8 s.ownCount, BitVec.ofNat 8 s.events.length]

/-- The value that READ-PEER sends for an offset; 0 for a far mark and for none. -/
def offsetClocks : Option Offset → Int
  | some ⟨.value v, _, _, _⟩ => v
  | _ => 0

/-- The 48 bytes of READ-PEER (R178, R185). -/
def Peer.payload (p : Peer) : List Byte :=
  [p.state.code, BitVec.ofNat 8 p.misses, (p.reported.map fun r => r.role.code).getD 0,
    flagBits p.reported.isSome ((p.reported.map (·.locked)).getD false) p.capture.valid
      ((p.offset.map (·.fresh)).getD false) false]
  ++ bytes2 ((p.reported.map (·.version)).getD 0) ++ bytes4 ((p.reported.map (·.frame)).getD 0)
  ++ bytes4 p.capture.senderFrame ++ p.capture.own.bytes
  ++ [offsetCode p.offset] ++ bytes8 (offsetClocks p.offset)
  ++ ((p.offset.map Offset.own).getD ⟨0, 0⟩).bytes ++ ((p.offset.map Offset.peer).getD ⟨0, 0⟩).bytes
  ++ [p.verdict.code]

/-- The entry that READ-PEER returns: a cleared entry for the own index and for an ABSENT entry (R87, R178; log 10). -/
def State.peerShown (s : State) (n : Nat) : Peer :=
  match s.peerAt n with
  | some p => if p.state = .absent then Peer.cleared Capture.empty else p
  | none => Peer.cleared Capture.empty

/-- The five target bytes of READ-EDIT (R185). -/
def targetBytes : Target → List Byte
  | .palette start count check => start :: (bytes2 count ++ bytes2 check)
  | .pan x y => bytes2 x ++ bytes2 y ++ [0]
  | .level value => [value, 0, 0, 0, 0]
  | .blank on => [flagByte on, 0, 0, 0, 0]

/-- The seven bytes of a fragment-received set (R185). -/
def fragmentBytes (xs : List Nat) : List Byte :=
  bytes3 ((bitSet 56 xs).extractLsb' 32 24) ++ bytes4 ((bitSet 56 xs).extractLsb' 0 32)

/-- The four bytes of a set of station numbers (R185). -/
def stationBytes (xs : List Station) : List Byte := bytes4 (bitSet 32 (xs.map (·.toNat)))

/-- The 37 bytes of READ-EDIT for a present entry (R178, R185). -/
def EditEntry.payload (e : EditEntry) : List Byte :=
  [1] ++ e.id.bytes ++ [e.target.code] ++ bytes4 e.takeFrame ++ targetBytes e.target
  ++ bytes2 (BitVec.ofNat 16 e.target.reservation) ++ [e.holding.code, e.state.code,
    flagBits (e.proposed.getD false) e.late e.deferred e.queryWait.isSome false]
  ++ fragmentBytes (e.received.getD []) ++ stationBytes (e.voters.getD []) ++ stationBytes (e.pendingVoters.getD [])
  ++ [BitVec.ofNat 8 (e.cursor.getD 0), BitVec.ofNat 8 (e.queryTries.getD 0), BitVec.ofNat 8 (e.queryWait.getD 0),
    (e.owed.map fun o => o.kind.code).getD 0]

/-- The payload of READ-EDIT: the absent indication alone for an empty index (R178). -/
def editPayload : Option EditEntry → List Byte
  | some e => e.payload
  | none => [0]

/-- The 11 bytes of READ-EVENT (R183, R185). -/
def Event.payload (e : Event) : List Byte :=
  [e.kind.code, flagBits e.station.isSome e.id.isSome e.reason.isSome e.role.isSome e.overrun] ++ bytes4 e.frame
  ++ [e.station.getD 0] ++ (e.id.getD ⟨0, 0⟩).bytes ++ [(e.reason.map Reason.code).getD 0, (e.role.map Role.code).getD 0]

/-- A response frame as it is shifted out: code, reason, payload length, payload and frame check (R173, R185). The code's
byte is a free value (log 27). -/
def Response.bytes (r : Response) : List Byte :=
  let body := Config.responseCodeByte r.code :: (r.reason.map ResponseReason.code).getD 0
    :: (bytes2 (BitVec.ofNat 16 r.payload.length) ++ r.payload)
  body ++ bytes2 (frameCheck body)

/-- Data-out: the byte that the station shifts out in byte time k of the phase, counted from 0. In the command phase it is 00h; in
the response phase the response frame, and 00h after its last byte (R170). Without a transaction nothing is shifted out
(log 6). -/
def State.dataOut (s : State) (k : Nat) : Option Byte :=
  match s.port.phase with
  | .command => some 0
  | .response => some (((s.port.response.map Response.bytes).getD [])[k]?.getD 0)
  | .idle | .held => none

end Sys2Proof.Machine
end

