-- ==== Sys2Proof/Machine/ControlPort.lean ====
section
/-! DEFINITION. The Control Port (chapter 10): transactions, the frame checks, the commands and their responses. -/

namespace Sys2Proof.Machine

open Sys2Proof

/-! ### Transactions (R170 to R173) -/

/-- A response with code DONE and a payload (R173). -/
def done (payload : List Byte) : Response := ⟨.done, none, payload⟩

/-- A response with code REFUSED and a reason (R173). -/
def refused (reason : ResponseReason) : Response := ⟨.refused, some reason, []⟩

/-- The phase after a completion: the response phase; a transaction taken whole at an idle port ends idle (log 6). -/
def PortPhase.afterCompletion : PortPhase → PortPhase
  | .idle => .idle
  | .command => .response
  | .response => .response
  | .held => .held

/-- The completion of a transaction leaves its response (R170). -/
def State.respond (s : State) (phase : PortPhase) (r : Response) : State :=
  { s with port := ⟨phase.afterCompletion, some r⟩ }

/-- R170, R172: the completion of a transaction with a command frame. The command acts by `act`, which answers none for a
command of another row; a frame that fails the checks is refused with INVALID. In the response phase, and while select is
held from before a reset, the bits shifted in are ignored (R170, R171). -/
def State.transact (s : State) (frame : List Byte) (act : Request → Option (State × Response)) : State :=
  match s.port.phase with
  | .idle | .command =>
    match (readCommandFrame frame).bind act with
    | some (s', r) => s'.respond s.port.phase r
    | none => s.respond s.port.phase (refused .invalid)
  | .response | .held => s

/-- TRANSACTION_SELECT: select is asserted at an idle port, which enters the command phase (R170). -/
def execTransactionSelect (s : State) : Host.Outcome State Fault Refusal :=
  .next (match s.port.phase with
    | .idle => { s with port := { s.port with phase := .command } }
    | .command | .response | .held => s)

/-- Select is deasserted: the port becomes idle (R170, R171). -/
def State.deselect (s : State) : State := { s with port := { s.port with phase := .idle } }

/-- TRANSACTION_DESELECT: select is deasserted after the completion (R171). -/
def execTransactionDeselect (s : State) : Host.Outcome State Fault Refusal := .next s.deselect

/-- TRANSACTION_VOIDED: select is deasserted before the completion; nothing else changes (R171). -/
def execTransactionVoided (s : State) : Host.Outcome State Fault Refusal := .next s.deselect

/-! ### The record, JOIN and LEAVE (R116, R127, R175, R176) -/

/-- The record that a CONFIGURE carries, valid and not frozen (R175). -/
def Geometry.record (g : Geometry) : ConfigRecord :=
  { station := g.station, lineLength := g.lineLength, lines := g.lines, width := g.width, height := g.height, x0 := g.x0,
    y0 := g.y0, canvasWidth := g.canvasWidth, canvasHeight := g.canvasHeight, base := g.base, stride := g.stride,
    valid := true, frozen := false }

/-- R175: the three tests of CONFIGURE, then the whole record. -/
def State.configure (s : State) (g : Geometry) : State × Response :=
  if s.cfg.frozen then (s, refused .frozen)
  else if s.ctl.role ≠ .offline then (s, refused .state)
  else if !g.inRange then (s, refused .invalid)
  else ({ s with cfg := Geometry.record g }, done [])

/-- R116: JOIN, by the role and the record. -/
def State.joinCommand (s : State) : State × Response :=
  match s.ctl.role with
  | .offline | .detached => if s.cfg.valid then (s.join, done []) else (s, refused .invalid)
  | .listen | .align | .member | .leaving => (s, refused .state)

/-- R127: LEAVE, by the role. -/
def State.leaveCommand (s : State) : State × Response :=
  match s.ctl.role with
  | .listen => (s.goOffline, done [])
  | .align | .member => (s.startLeaving, done [])
  | .offline | .leaving | .detached => (s, refused .state)

/-! ### SUBMIT (R44, R45, R179) -/

/-- The DONE payload of a SUBMIT: the new edit id and the take frame (R185). -/
def State.submitPayload (s : State) (x : Submission) : List Byte :=
  (s.submittedEntry x).id.bytes ++ bytes4 (s.submittedEntry x).takeFrame

/-- R44, R45: a SUBMIT is tested, and creates its entry. -/
def State.submit (s : State) (x : Submission) : State × Response :=
  match s.submitRefusal x with
  | some reason => (s, refused reason)
  | none => (s.createOwn x, done (s.submitPayload x))

/-- The submission of SUBMIT-PALETTE: the check value is the station's (R45); the record count is the count field (R44). -/
def paletteSubmission (lead start : Byte) (count : Half) (records : List Colour) : Submission :=
  let t := Target.palette start count (checkValue start.toNat records)
  ⟨lead, t, records, t.inRange && records.length = count.toNat⟩

/-- The submission of SUBMIT-PAN. -/
def panSubmission (lead : Byte) (x y : Half) : Submission := ⟨lead, .pan x y, [], true⟩

/-- The submission of SUBMIT-LEVEL. -/
def levelSubmission (lead value : Byte) : Submission := ⟨lead, .level value, [], true⟩

/-- The submission of SUBMIT-BLANK: the byte is off 0 or on 1 (R185; log 18). -/
def blankSubmission (lead on : Byte) : Submission := ⟨lead, .blank (on = 1), [], on = 0 || on = 1⟩

/-! ### Reads (R177, R178, R183) -/

/-- R178: READ-PEER. -/
def State.readPeer (s : State) (index : Byte) : Response :=
  if index.toNat < 32 then done (s.peerShown index.toNat).payload else refused .invalid

/-- R178: READ-EDIT. -/
def State.readEdit (s : State) (index : Byte) : Response :=
  if index.toNat < 16 then done (editPayload (s.entryAt index.toNat)) else refused .invalid

/-- R178: READ-PALETTE: the index and the live record. -/
def State.readPalette (s : State) (index : Byte) : Response :=
  done (index :: (recordOr s.wall.palette[index.toNat]?).bytes)

/-- R183: READ-EVENT removes the head of the queue. -/
def State.readEvent (s : State) : State × Response :=
  match s.events with
  | e :: rest => ({ s with events := rest }, done e.payload)
  | [] => (s, ⟨.empty, none, []⟩)

/-! ### Resets (R5, R43, R72, R89, R114, R131, R145, R163, R174, R180) -/

/-- R180: a soft reset of every block; the record, the running timer, the trim, the capture pairs and the port are kept. -/
def State.softReset (s : State) : State :=
  { s.clearPeers with
    wall := WallState.default
    edit := EditUnit.reset
    timer := { Timer.reset with running := s.timer.running, trim := s.timer.trim }
    ctl := RoleControl.reset
    catchUp := CatchUp.reset
    bus := Bus.reset
    pixel := PixelPath.reset (s.pixel.givenUp + s.pixel.outstanding)
    events := [] }

/-- Select as a power-on reset leaves it: one held asserted begins no transaction until it is deasserted (R171). -/
def PortPhase.afterReset : PortPhase → PortPhase
  | .idle => .idle
  | .command | .response | .held => .held

/-- A power-on reset: every block at its reset values. Answers due at the memory port are discarded as they come (R163). -/
def State.powerOn (s : State) : State :=
  { State.reset with
    pixel := PixelPath.reset (s.pixel.givenUp + s.pixel.outstanding)
    port := ⟨s.port.phase.afterReset, none⟩
    pending := s.pending
    freeCount := s.freeCount }

/-- POWER_ON_RESET. -/
def execPowerOnReset (s : State) : Host.Outcome State Fault Refusal := .next s.powerOn

/-- RESET_PIN: the pin is asserted and released; the effect is a power-on reset's (R5, 9.4). -/
def execResetPin (s : State) : Host.Outcome State Fault Refusal := .next s.powerOn

/-! ### The command rows -/

/-- STATUS (R177). -/
def execStatus (frame : List Byte) (s : State) : Host.Outcome State Fault Refusal :=
  .next (s.transact frame fun
    | .status => some (s, done s.statusPayload)
    | _ => none)

/-- CONFIGURE (R175). -/
def execConfigure (frame : List Byte) (s : State) : Host.Outcome State Fault Refusal :=
  .next (s.transact frame fun
    | .configure g => some (s.configure g)
    | _ => none)

/-- JOIN (R116). -/
def execJoin (frame : List Byte) (s : State) : Host.Outcome State Fault Refusal :=
  .next (s.transact frame fun
    | .join => some s.joinCommand
    | _ => none)

/-- LEAVE (R127). -/
def execLeave (frame : List Byte) (s : State) : Host.Outcome State Fault Refusal :=
  .next (s.transact frame fun
    | .leave => some s.leaveCommand
    | _ => none)

/-- SUBMIT_PALETTE (R44, R45). -/
def execSubmitPalette (frame : List Byte) (s : State) : Host.Outcome State Fault Refusal :=
  .next (s.transact frame fun
    | .submitPalette lead start count records => some (s.submit (paletteSubmission lead start count records))
    | _ => none)

/-- SUBMIT_PAN (R44, R45). -/
def execSubmitPan (frame : List Byte) (s : State) : Host.Outcome State Fault Refusal :=
  .next (s.transact frame fun
    | .submitPan lead x y => some (s.submit (panSubmission lead x y))
    | _ => none)

/-- SUBMIT_LEVEL (R44, R45). -/
def execSubmitLevel (frame : List Byte) (s : State) : Host.Outcome State Fault Refusal :=
  .next (s.transact frame fun
    | .submitLevel lead value => some (s.submit (levelSubmission lead value))
    | _ => none)

/-- SUBMIT_BLANK (R44, R45). -/
def execSubmitBlank (frame : List Byte) (s : State) : Host.Outcome State Fault Refusal :=
  .next (s.transact frame fun
    | .submitBlank lead on => some (s.submit (blankSubmission lead on))
    | _ => none)

/-- READ_PEER (R178). -/
def execReadPeer (frame : List Byte) (s : State) : Host.Outcome State Fault Refusal :=
  .next (s.transact frame fun
    | .readPeer index => some (s, s.readPeer index)
    | _ => none)

/-- READ_EDIT (R178). -/
def execReadEdit (frame : List Byte) (s : State) : Host.Outcome State Fault Refusal :=
  .next (s.transact frame fun
    | .readEdit index => some (s, s.readEdit index)
    | _ => none)

/-- READ_PALETTE (R178). -/
def execReadPalette (frame : List Byte) (s : State) : Host.Outcome State Fault Refusal :=
  .next (s.transact frame fun
    | .readPalette index => some (s, s.readPalette index)
    | _ => none)

/-- READ_EVENT (R183). -/
def execReadEvent (frame : List Byte) (s : State) : Host.Outcome State Fault Refusal :=
  .next (s.transact frame fun
    | .readEvent => some s.readEvent
    | _ => none)

/-- RESET (R180). -/
def execReset (frame : List Byte) (s : State) : Host.Outcome State Fault Refusal :=
  .next (s.transact frame fun
    | .reset => some (s.softReset, done [])
    | _ => none)

end Sys2Proof.Machine
end

