-- ==== Sys2Proof/Machine/FrameOrder.lean ====
section
/-! DEFINITION. The orders of the blocks' work at one frame start: which the spec allows, and the one the model takes for an
operand that is none of them. -/

namespace Sys2Proof

/-- Every piece of frame-start work, once, in the model's default order (log 1). -/
def FrameWork.all : List FrameWork :=
  [.frameTimer, .editRenumber, .roleAdopt, .missCount, .verdictCount, .dumpApply, .promotion, .foundingWait,
   .applications, .ownDeadlines, .collectionDeadlines, .queryWaits, .goInDoubt, .observerExpiry, .catchUpWaits,
   .beaconRenewal]

/-- In the order, the one piece comes before the other. -/
def FrameWork.before (order : List FrameWork) (a b : FrameWork) : Bool := order.idxOf a < order.idxOf b

/-- An order of the frame-start work that the spec allows: every piece once; the hand-overs of an adopt after its
decision (R107, R110), the change to ALIGN after the drop of the edit table (R41), with the founding wait before the decision
or after both hand-overs (R112); the promotion test before the founding wait (R121); the dump apply before the due entries
(R11); the query waits before an entry goes in doubt (R65). -/
def FrameWork.allowed (order : List FrameWork) : Bool :=
  order.length = FrameWork.all.length
  && FrameWork.all.all (fun w => order.contains w)
  && FrameWork.before order .frameTimer .editRenumber
  && FrameWork.before order .editRenumber .roleAdopt
  && (FrameWork.before order .foundingWait .frameTimer || FrameWork.before order .roleAdopt .foundingWait)
  && FrameWork.before order .promotion .foundingWait
  && FrameWork.before order .dumpApply .applications
  && FrameWork.before order .queryWaits .goInDoubt

/-- The order a frame start follows: the operand, or the default for an operand the spec does not allow (log 1). -/
def FrameWork.effective (order : List FrameWork) : List FrameWork :=
  if FrameWork.allowed order then order else FrameWork.all

end Sys2Proof
end

