-- ==== Sys2Proof/Machine/FrameStart.lean ====
section
/-! DEFINITION. The frame start (R94): the blocks' work in the order the command carries, and the rows of the table that are
frame starts. -/

namespace Sys2Proof.Machine

open Sys2Proof

/-- A frame start under way: the state, the adopt decided, whether the founding wait has been counted, and the events of the
table's rows that have occurred. -/
structure FrameRun where
  state         : State
  adopt         : Option AdoptKind
  waited        : Bool
  silenced      : List Station
  founded       : Bool
  alignExpired  : Bool
  queriesEnded  : List EditId
  askExpired    : Bool
  receiveExpired : Bool
  retryExpired  : Bool
  deriving DecidableEq, Repr

/-- The frame start begins: nothing has occurred yet. -/
def FrameRun.start (s : State) : FrameRun :=
  ⟨s, none, false, [], false, false, [], false, false, false⟩

/-- A piece of work that is a function of the state alone. -/
def FrameRun.update (x : FrameRun) (f : State → State) : FrameRun := { x with state := f x.state }

/-- The founding wait, once in a frame start (R117). -/
def FrameRun.wait (x : FrameRun) : FrameRun :=
  if x.waited then x
  else { x with
    state := x.state.waitWork, waited := true
    founded := x.state.waitEvent = .founding, alignExpired := x.state.waitEvent = .alignExpiry }

/-- R11: a founding comes before every other write, so a station in LISTEN counts its founding wait before them. -/
def FrameRun.foundFirst (x : FrameRun) : FrameRun := if x.state.ctl.role = .listen then x.wait else x

/-- The hand-over of an adopt to the Role Controller (R119, R126). -/
def FrameRun.handOver (x : FrameRun) : FrameRun :=
  match x.adopt with
  | some .listen => x.update State.listenToAlign
  | some .renumber => x.update State.renumberRole
  | none => x

/-- The renumber's drop of the edit table (R41). -/
def FrameRun.dropRenumbered (x : FrameRun) : FrameRun :=
  match x.adopt with
  | some .renumber => x.update fun s => s.dropAll .renumbered
  | some .listen | none => x

/-- The station numbers of the entries that fall silent at this frame start (R77). -/
def State.fallingSilent (s : State) : List Station :=
  (s.peerList.filter fun x => x.2.fallsSilent).map fun x => stationOf x.1

/-- One piece of the blocks' work. -/
def FrameRun.work (x : FrameRun) : FrameWork → FrameRun
  | .frameTimer => { x with state := x.state.timerWork.1, adopt := x.state.timerWork.2 }
  | .editRenumber => x.dropRenumbered
  | .roleAdopt => x.handOver
  | .missCount => { x with state := x.state.missCount, silenced := x.state.fallingSilent }
  | .verdictCount => x.update State.verdictWork
  | .promotion => x.update State.promotion
  | .foundingWait => x.wait
  | .dumpApply => x.foundFirst.update State.dumpApply
  | .applications => x.foundFirst.update State.applications
  | .ownDeadlines => x.update State.ownDeadlines
  | .collectionDeadlines => x.update State.collectionDeadlines
  | .queryWaits =>
    { x with
      state := x.state.queryWaits
      queriesEnded := (x.state.entries.filter fun e => e.2.queryExpires).map fun e => e.2.id }
  | .goInDoubt => x.update State.goInDoubt
  | .observerExpiry => x.update State.observerExpiry
  | .catchUpWaits =>
    { x with
      state := x.state.catchUpWaits
      askExpired := x.state.askExpires, receiveExpired := x.state.receiveExpires, retryExpired := x.state.retryExpires }
  | .beaconRenewal => x.update State.beaconRenewal

/-- The frame start: the frame number advances, the blocks work in an order the spec allows, and the Pixel Path latches
the result (R6, R11, R13, R94). No event of another agent comes between its pieces, so a dump whose DUMP-END
comes before the expiry of the receive wait is applied at that frame start, where R135 allows the next one too (log 38). -/
def State.frameStart (s : State) (order : List FrameWork) : FrameRun :=
  let x := (FrameWork.effective order).foldl FrameRun.work (FrameRun.start s.advanceFrame)
  x.update State.latchFrame

/-- The frame start, while the timer runs (R90), when an event is among what occurs at it; else nothing happens, since the
event does not occur (log 2). -/
def State.frameStartWith (s : State) (order : List FrameWork) (event : FrameRun → Bool) : State :=
  if s.timer.running ∧ event (s.frameStart order) then (s.frameStart order).state else s

/-- FRAME_START (R94). While the timer is stopped it raises no frame start (R90). -/
def execFrameStart (order : List FrameWork) (s : State) : Host.Outcome State Fault Refusal :=
  .next (s.frameStartWith order fun _ => true)

/-- PEER_SILENT: the frame start at which the entry of a peer becomes SILENT (R77). -/
def execPeerSilent (peer : Station) (order : List FrameWork) (s : State) : Host.Outcome State Fault Refusal :=
  .next (s.frameStartWith order fun x => x.silenced.contains peer)

/-- FOUNDING: the frame start at which the founding wait reaches 32 in LISTEN (R118). -/
def execFounding (order : List FrameWork) (s : State) : Host.Outcome State Fault Refusal :=
  .next (s.frameStartWith order fun x => x.founded)

/-- FOUNDING_WAIT_EXPIRY_ALIGN: the frame start at which the founding wait reaches 32 in ALIGN (R121). -/
def execFoundingWaitExpiryAlign (order : List FrameWork) (s : State) : Host.Outcome State Fault Refusal :=
  .next (s.frameStartWith order fun x => x.alignExpired)

/-- QUERY_WAIT_EXPIRY: the frame start at which the query wait of an entry runs out (R65). -/
def execQueryWaitExpiry (id : EditId) (order : List FrameWork) (s : State) : Host.Outcome State Fault Refusal :=
  .next (s.frameStartWith order fun x => x.queriesEnded.contains id)

/-- ASK_WAIT_EXPIRY: the frame start at which the ask wait runs out (R132). -/
def execAskWaitExpiry (order : List FrameWork) (s : State) : Host.Outcome State Fault Refusal :=
  .next (s.frameStartWith order fun x => x.askExpired)

/-- RECEIVE_WAIT_EXPIRY: the frame start at which the receive wait runs out (R135). -/
def execReceiveWaitExpiry (order : List FrameWork) (s : State) : Host.Outcome State Fault Refusal :=
  .next (s.frameStartWith order fun x => x.receiveExpired)

/-- RETRY_WAIT_EXPIRY: the frame start at which the retry wait runs out (R136). -/
def execRetryWaitExpiry (order : List FrameWork) (s : State) : Host.Outcome State Fault Refusal :=
  .next (s.frameStartWith order fun x => x.retryExpired)

end Sys2Proof.Machine
end

