-- ==== Sys2Proof/Machine/Dispatch.lean ====
section
/-! DEFINITION. The meaning of every command, one arm per constructor of Instr. -/

namespace Sys2Proof.Machine

open Sys2Proof

def exec (i : Instr) (s : State) : Host.Outcome State Fault Refusal :=
  match i with
  | .powerOnReset => Sys2Proof.Machine.execPowerOnReset s
  | .resetPin => Sys2Proof.Machine.execResetPin s
  | .status frame => Sys2Proof.Machine.execStatus frame s
  | .configure frame => Sys2Proof.Machine.execConfigure frame s
  | .join frame => Sys2Proof.Machine.execJoin frame s
  | .leave frame => Sys2Proof.Machine.execLeave frame s
  | .submitPalette frame => Sys2Proof.Machine.execSubmitPalette frame s
  | .submitPan frame => Sys2Proof.Machine.execSubmitPan frame s
  | .submitLevel frame => Sys2Proof.Machine.execSubmitLevel frame s
  | .submitBlank frame => Sys2Proof.Machine.execSubmitBlank frame s
  | .readPeer frame => Sys2Proof.Machine.execReadPeer frame s
  | .readEdit frame => Sys2Proof.Machine.execReadEdit frame s
  | .readPalette frame => Sys2Proof.Machine.execReadPalette frame s
  | .readEvent frame => Sys2Proof.Machine.execReadEvent frame s
  | .reset frame => Sys2Proof.Machine.execReset frame s
  | .transactionVoided => Sys2Proof.Machine.execTransactionVoided s
  | .frameStart order => Sys2Proof.Machine.execFrameStart order s
  | .peerSilent peer order => Sys2Proof.Machine.execPeerSilent peer order s
  | .founding order => Sys2Proof.Machine.execFounding order s
  | .foundingWaitExpiryAlign order => Sys2Proof.Machine.execFoundingWaitExpiryAlign order s
  | .queryWaitExpiry id order => Sys2Proof.Machine.execQueryWaitExpiry id order s
  | .askWaitExpiry order => Sys2Proof.Machine.execAskWaitExpiry order s
  | .receiveWaitExpiry order => Sys2Proof.Machine.execReceiveWaitExpiry order s
  | .retryWaitExpiry order => Sys2Proof.Machine.execRetryWaitExpiry order s
  | .fetchIssue line => Sys2Proof.Machine.execFetchIssue line s
  | .readAnswer index => Sys2Proof.Machine.execReadAnswer index s
  | .fetchCut => Sys2Proof.Machine.execFetchCut s
  | .activePixelScan line pixel => Sys2Proof.Machine.execActivePixelScan line pixel s
  | .attemptStart rivals => Sys2Proof.Machine.execAttemptStart rivals s
  | .receptionStart => Sys2Proof.Machine.execReceptionStart s
  | .attemptCompletion completion => Sys2Proof.Machine.execAttemptCompletion completion s
  | .corruptReception => Sys2Proof.Machine.execCorruptReception s
  | .voidReception => Sys2Proof.Machine.execVoidReception s
  | .beaconArrival sender beacon => Sys2Proof.Machine.execBeaconArrival sender beacon s
  | .farewellArrival sender station => Sys2Proof.Machine.execFarewellArrival sender station s
  | .proposeArrival sender id takeFrame target => Sys2Proof.Machine.execProposeArrival sender id takeFrame target s
  | .dataArrival sender id fragment records => Sys2Proof.Machine.execDataArrival sender id fragment records s
  | .acceptArrival sender id => Sys2Proof.Machine.execAcceptArrival sender id s
  | .refuseArrival sender id reason => Sys2Proof.Machine.execRefuseArrival sender id reason s
  | .takeArrival sender id => Sys2Proof.Machine.execTakeArrival sender id s
  | .dropArrival sender id reason => Sys2Proof.Machine.execDropArrival sender id reason s
  | .queryArrival sender id => Sys2Proof.Machine.execQueryArrival sender id s
  | .outcomeArrival sender id taken => Sys2Proof.Machine.execOutcomeArrival sender id taken s
  | .dumpRequestArrival sender requester => Sys2Proof.Machine.execDumpRequestArrival sender requester s
  | .dumpBeginArrival sender requester header => Sys2Proof.Machine.execDumpBeginArrival sender requester header s
  | .dumpDataArrival sender requester fragment records => Sys2Proof.Machine.execDumpDataArrival sender requester fragment records s
  | .dumpEndArrival sender requester torn check => Sys2Proof.Machine.execDumpEndArrival sender requester torn check s
  | .messageDiscarded bytes => Sys2Proof.Machine.execMessageDiscarded bytes s
  | .transactionSelect => Sys2Proof.Machine.execTransactionSelect s
  | .transactionDeselect => Sys2Proof.Machine.execTransactionDeselect s
  | .readRequestIssue => Sys2Proof.Machine.execReadRequestIssue s
  | .idleGap => Sys2Proof.Machine.execIdleGap s

end Sys2Proof.Machine
end

