-- ==== Sys2Proof/Machine/Scan.lean ====
section
/-! DEFINITION. One pixel clock of the running scan: what the part does when no command waits (log 4). The same operations as
the rows of the table, at the positions where R91, R94, R164 and R167 place them. -/

namespace Sys2Proof.Machine

open Sys2Proof

/-- The frame start that the scan raises itself. Its order is a free value (log 4). -/
def State.ownFrameStart (s : State) : State :=
  { (s.frameStart (Config.freeFrameOrder s.freeCount)).state with freeCount := s.freeCount + 1 }

/-- The scan goes on by one pixel clock. -/
def State.advanceClock (s : State) : State :=
  match s.nextPosition with
  | some (line, pixel) => s.scanTo line pixel
  | none => s.ownFrameStart

/-- The active line whose fetch is due at the scan position and is not issued yet (R164). -/
def State.fetchOwed (s : State) : Option Nat :=
  if s.timer.pixel = 0 ∧ s.pixel.issuedHere = false then s.dueFetch s.timer.line else none

/-- The scan position is that of an active pixel which is not output yet (R167). -/
def State.pixelOwed (s : State) : Bool := activePixel s.cfg s.timer.line s.timer.pixel && !s.pixel.scannedHere

/-- The fetch in progress has a read request left, and the clock of the scan position has not issued one (R164). -/
def State.requestOwed (s : State) : Bool := s.nextRead.isSome && !s.pixel.requestedHere

/-- Work of the scan position is not done yet, as after a JOIN, a reset or a row of the table that moved the scan. -/
def State.clockOwed (s : State) : Bool := s.fetchOwed.isSome || s.requestOwed || s.pixelOwed

/-- A fetch due at the scan position is issued (R164). -/
def State.clockIssue (s : State) : State :=
  match s.fetchOwed with
  | some y => s.issueFetch (s.pixel.spare s.timer.line) y
  | none => s

/-- An active pixel is output (R167). -/
def State.clockOutput (s : State) : State :=
  if activePixel s.cfg s.timer.line s.timer.pixel then s.outputPixel s.timer.line s.timer.pixel else s

/-- The work of one pixel clock at the scan position: issue, cut, read request, output. -/
def State.clockWork (s : State) : State := ((s.clockIssue.clockCut).issueRead).clockOutput

/-- One pixel clock, while the timer runs (R90). Work that the scan position still owes is done before the scan goes on. -/
def State.tick (s : State) : State :=
  if s.timer.running then (if s.clockOwed then s.clockWork else s.advanceClock.clockWork) else s

end Sys2Proof.Machine
end

