-- ==== Sys2Proof/Safety.lean ====
section
/-! DEFINITION. The laws that a state of the part keeps, in the terms the statements use: capacities, the edit table, the peer
entries, the record and the timer, the lock, the correction, the latch, and a station outside the wall. -/

namespace Sys2Proof.Machine

open Sys2Proof

/-- The lists stay within their capacities (R25, R26, R181). -/
def State.withinCapacity (s : State) : Prop :=
  s.events.length ≤ 32 ∧ s.edit.refusals.length ≤ 4 ∧ s.edit.outcomes.length ≤ 8

/-- The staging records reserved by the entries of the edit table (R23). -/
def State.reserved (s : State) : Nat := (s.entries.map fun x => x.2.target.reservation).sum

/-- The laws of the edit table: no two entries share an id or conflict (R18), at most 4 are OWN (R21), and the reservations
fit the staging pool (R23). -/
def State.tableLawful (s : State) : Prop :=
  (∀ i j a b, s.entryAt i = some a → s.entryAt j = some b → i ≠ j →
    a.id ≠ b.id ∧ a.target.conflicts b.target = false)
  ∧ s.ownCount ≤ 4 ∧ s.reserved ≤ 1024

/-- A peer entry's misses: at most 3, below 3 while LIVE (R71, R77); an ABSENT entry is a cleared one (R72). -/
def Peer.lawful (p : Peer) : Prop :=
  p.misses ≤ 3 ∧ (p.state = .live → p.misses < 3) ∧ (p.state = .absent → p = p.clear)

/-- Every entry of the Peer Table is lawful. -/
def State.peersLawful (s : State) : Prop := ∀ (n : Nat) (p : Peer), s.peers[n]? = some p → p.lawful

/-- The values of the record, as a CONFIGURE would carry them. -/
def ConfigRecord.values (c : ConfigRecord) : Geometry :=
  ⟨c.station, c.lineLength, c.lines, c.width, c.height, c.x0, c.y0, c.canvasWidth, c.canvasHeight, c.base, c.stride⟩

/-- The record, the timer and the role: a valid record is in range (R174, R175), a frozen one is valid (R176), a running timer
has a frozen record (R90), a station outside OFFLINE has a running timer (R116), and a stopped timer stands at (0, 0) of
frame 0 (R90). -/
def State.recordLawful (s : State) : Prop :=
  (s.cfg.valid = true → s.cfg.values.inRange = true)
  ∧ (s.cfg.frozen = true → s.cfg.valid = true)
  ∧ (s.timer.running = true → s.cfg.frozen = true)
  ∧ (s.ctl.role ≠ .offline → s.timer.running = true)
  ∧ (s.timer.running = false → s.timer.frame = 0 ∧ s.timer.line = 0 ∧ s.timer.pixel = 0)

/-- The lock status and its counter (R89, R102): LOCKED exactly at 8, FREE only at 0. -/
def State.lockLawful (s : State) : Prop :=
  s.timer.lockCount ≤ 8 ∧ (s.timer.lock = .locked ↔ s.timer.lockCount = 8) ∧ (s.timer.lock = .free → s.timer.lockCount = 0)

/-- The correction lies within the limits of R92, and is 0 before the record is frozen. -/
def State.correctionLawful (s : State) : Prop :=
  (s.cfg.frozen = false → s.timer.correction = 0)
  ∧ (s.cfg.valid = true → -s.cfg.shorteningLimit ≤ s.timer.correction ∧ s.timer.correction ≤ s.cfg.p)

/-- The latched values are the live ones (R13), the output is shown only in a showing role with a valid state, and the panel's
colour is 0 where it is not shown (R14). -/
def State.latchLawful (s : State) : Prop :=
  s.pixel.latched.palette = s.wall.palette ∧ s.pixel.latched.panX = s.wall.panX ∧ s.pixel.latched.panY = s.wall.panY
  ∧ s.pixel.latched.level = s.wall.level ∧ s.pixel.latched.blank = s.wall.blank
  ∧ (s.pixel.latched.showing = true → s.wall.valid = true ∧ s.ctl.role.transmits = true)
  ∧ (s.pixel.latched.showing = false → s.pixel.rgb = Colour.black)

/-- The attempt that a station outside the wall can have: one of its own that completes unheeded (R130, R151). -/
def Attempt.unheeded : Attempt → Prop
  | .transmitting t => t.withdrawn = true
  | .receiving _ _ => False

/-- A station in OFFLINE or DETACHED holds nothing of the wall (R130): state-valid is clear, the lock FREE, the edit
collections, the Peer Table, the Catch-Up Unit and every source empty. -/
def State.outsideLawful (s : State) : Prop :=
  s.ctl.role.receives = false →
    s.wall.valid = false ∧ s.timer.lock = .free ∧ (∀ i, s.entryAt i = none) ∧ s.edit.refusals = []
    ∧ s.edit.outcomes = [] ∧ (∀ (n : Nat) (p : Peer), s.peers[n]? = some p → p = p.clear) ∧ s.catchUp = CatchUp.reset
    ∧ s.bus.beacon = none ∧ s.ctl.farewell = none ∧ (∀ a, s.bus.attempt = some a → a.unheeded)

/-- The part outside the Bus Interface, the Edit Unit, the event queue and the requester's missed flag: what the messages of
an edit never touch. -/
def State.sameButEdits (s t : State) : Prop :=
  t.wall = s.wall ∧ t.peers = s.peers ∧ t.timer = s.timer ∧ t.ctl = s.ctl ∧ t.pixel = s.pixel ∧ t.cfg = s.cfg
  ∧ t.port = s.port ∧ t.pending = s.pending ∧ t.freeCount = s.freeCount ∧ t.catchUp.resp = s.catchUp.resp
  ∧ t.catchUp.buffer = s.catchUp.buffer ∧ t.catchUp.req = { s.catchUp.req with missed := t.catchUp.req.missed }

/-- What a catch-up start leaves of a requester context (R132): a new cycle when it is IDLE, the missed flag otherwise. -/
def Requester.started (r : Requester) : Requester :=
  if r.state = .idle then
    { r with
      state := .asking, tries := 0, askWait := none, responder := none, header := none, received := [],
      receiveWait := none, retryWait := none, owed := some ⟨.dumpRequest, 0⟩ }
  else { r with missed := true }

/-- What a voter's entry becomes when the station ceases to vote (R40). -/
def EditEntry.ceased (e : EditEntry) : EditEntry :=
  if e.holding = .voter ∧ e.state = .collecting then { e with holding := .observer, queryTries := none }
  else if e.holding = .voter ∧ e.state = .accepted then
    { e with holding := .observer, state := .complete, queryTries := none, owed := none }
  else e

/-- The state t is what the change of a member s to ALIGN leaves, with its hand-overs (R122, R124, R126): the role and the
counts, ROLE-CHANGED, the Edit Unit ceasing to vote (R40; an owed OUTCOME that waits for its retry is withdrawn too, log 17),
the verdicts gone, the responder ending its dump (R144; log 16, log 33) and a catch-up start (R132). The wall state, the timer
and the Pixel Path stay. -/
def State.turned (s t : State) : Prop :=
  t.ctl = { s.ctl with role := .align, foundingWait := 0, strikes := 0, ties := 0, split := .armed }
  ∧ t.events = joinQueue s.events ⟨.roleChanged, s.timer.frame, none, none, none, some .align, false⟩
  ∧ (∀ k, t.entryAt k = (s.entryAt k).map EditEntry.ceased) ∧ t.edit.refusals = []
  ∧ (s.bus.attempt = none → t.edit.outcomes = s.edit.outcomes.map fun o =>
      if o.owed.map (·.kind) = some .outcome then { o with owed := none } else o)
  ∧ t.peers = mapTable (fun p => { p with verdict := .none }) s.peers
  ∧ t.catchUp.req = s.catchUp.req.started
  ∧ (s.catchUp.resp.state = .idle → t.catchUp.resp = s.catchUp.resp)
  ∧ (s.catchUp.resp.state = .offering → s.bus.attempt = none → t.catchUp.resp = Responder.reset)
  ∧ (s.catchUp.resp.state = .sending → t.catchUp.resp.state = .sending ∧ t.catchUp.resp.cursor = 52
      ∧ t.catchUp.resp.torn = true ∧ t.catchUp.resp.owed.map (·.kind) = some .dumpEnd)
  ∧ t.wall = s.wall ∧ t.timer = s.timer ∧ t.pixel = s.pixel ∧ t.cfg = s.cfg ∧ t.port = s.port

/-- A reception is in progress at a station that receives. -/
def State.hears (s : State) : Prop :=
  s.ctl.role.receives = true ∧ ∃ time usable, s.bus.attempt = some (.receiving time usable)

/-- No peer is heard: every entry of the Peer Table is a cleared one. -/
def State.alone (s : State) : Prop := ∀ (n : Nat) (p : Peer), s.peers[n]? = some p → p = p.clear

end Sys2Proof.Machine

namespace Sys2Proof

open Sys2Proof.Machine

/-! ### The rows of the table -/

/-- The rows that are frame starts, with their order. -/
def Instr.frameOrder : Instr → Option (List FrameWork)
  | .frameStart o | .peerSilent _ o | .founding o | .foundingWaitExpiryAlign o | .queryWaitExpiry _ o | .askWaitExpiry o
  | .receiveWaitExpiry o | .retryWaitExpiry o => some o
  | _ => none

/-- The rows that are resets. -/
def Instr.isReset : Instr → Bool
  | .powerOnReset | .resetPin | .reset _ => true
  | _ => false

/-- The rows that are control-port commands, with their frame. -/
def Instr.controlFrame : Instr → Option (List Byte)
  | .status f | .configure f | .join f | .leave f | .submitPalette f | .submitPan f | .submitLevel f | .submitBlank f
  | .readPeer f | .readEdit f | .readPalette f | .readEvent f | .reset f => some f
  | _ => none

/-- The row is a SUBMIT whose frame carries the submission. -/
def Instr.submits (i : Instr) (x : Submission) : Prop :=
  match i with
  | .submitPalette f => ∃ lead start count records,
      readCommandFrame f = some (.submitPalette lead start count records) ∧ x = paletteSubmission lead start count records
  | .submitPan f => ∃ lead px py, readCommandFrame f = some (.submitPan lead px py) ∧ x = panSubmission lead px py
  | .submitLevel f => ∃ lead value, readCommandFrame f = some (.submitLevel lead value) ∧ x = levelSubmission lead value
  | .submitBlank f => ∃ lead on, readCommandFrame f = some (.submitBlank lead on) ∧ x = blankSubmission lead on
  | _ => False

/-- The rows that the tile bus brings to a receiver. -/
def Instr.isReception : Instr → Bool
  | .receptionStart | .corruptReception | .voidReception | .messageDiscarded _ | .idleGap | .beaconArrival _ _
  | .farewellArrival _ _ | .proposeArrival _ _ _ _ | .dataArrival _ _ _ _ | .acceptArrival _ _ | .refuseArrival _ _ _
  | .takeArrival _ _ | .dropArrival _ _ _ | .queryArrival _ _ | .outcomeArrival _ _ _ | .dumpRequestArrival _ _
  | .dumpBeginArrival _ _ _ | .dumpDataArrival _ _ _ _ | .dumpEndArrival _ _ _ _ => true
  | _ => false

/-- The rows that bring a message of an edit. -/
def Instr.isEditArrival : Instr → Bool
  | .proposeArrival _ _ _ _ | .dataArrival _ _ _ _ | .acceptArrival _ _ | .refuseArrival _ _ _ | .takeArrival _ _
  | .dropArrival _ _ _ | .queryArrival _ _ | .outcomeArrival _ _ _ => true
  | _ => false

/-! ### Frames and messages that can be sent -/

/-- The parameter length a command's layout requires (R172, R185): 4 + 4 × n for SUBMIT-PALETTE, n in 1..256. -/
def requiredLength (code : Byte) (n : Nat) : Prop :=
  if code = 0x02 then n = 22
  else if code = 0x10 then ∃ k, 1 ≤ k ∧ k ≤ 256 ∧ n = 4 + 4 * k
  else if code = 0x11 then n = 5
  else if code = 0x12 ∨ code = 0x13 then n = 2
  else if code = 0x20 ∨ code = 0x21 ∨ code = 0x22 then n = 1
  else n = 0

/-- A command that a frame can carry: a SUBMIT-PALETTE has 1..256 records (R172). -/
def Request.sendable : Request → Bool
  | .submitPalette _ _ _ records => 1 ≤ records.length && records.length ≤ 256
  | _ => true

/-- A message that the tile bus can carry: a fragment has 1 to 5 records (R161). -/
def Message.sendable : Message → Bool
  | .data _ _ records | .dumpData _ _ records => 1 ≤ records.length && records.length ≤ 5
  | _ => true

end Sys2Proof
end

