-- ==== Sys2Proof/Certificates/Slice0/Obligations.lean ====
section
/-! DEFINITION. The statements for the provers. A statement named "derived" in OBLIGATIONS.json rests in part on a choice of the
model, whose log entry its docstring names. Where an arrival ends the reception, `driven := .acknowledgment` is the acknowledgment that
R147 has the station drive for a message it finds good; the form of the field is log 35's. -/

open Sys2Proof Sys2Proof.Machine

/-! ### Steps and resets -/

/-- A step runs the command at the front of the queue on the state with the queue's rest. The queue is the model's interface
(log 26). -/
def Obligations.StepRunsTheFrontCommand : Prop :=
  ∀ (c : Instr) (rest : List Instr) (s : State), step { s with pending := c :: rest } = exec c { s with pending := rest }

/-- Every command answers a next state, and leaves the model's queue and counter of free choices to the step
(log 4, log 26). -/
def Obligations.EveryCommandAnswersANextState : Prop :=
  ∀ (c : Instr) (s : State), ∃ t, exec c s = .next t ∧ t.pending = s.pending ∧ t.freeCount = s.freeCount

/-- On an empty queue a stopped timer leaves the part as it is, and a running one lets one pixel clock pass (log 4). A position that
still owes work, a fetch due there and not issued, a read request of the fetch in progress not out or an active pixel not output,
does it before the scan moves on (log 37); else the scan moves on by one position, its output 0 there until the pixel is output
(log 31), or a frame start comes, in an order that is a free value. The work of a clock, at the position that stays and at the new
one alike, is that of the rows at its position: the fetch due is issued, the fetch in progress is cut after pixel W − 1 of its own
line, one read request goes out unless one is out already, and an active pixel is output. After it nothing is owed at the
position. -/
def Obligations.EmptyQueuePassesOnePixelClock : Prop :=
  ∀ s : State, s.pending = [] →
    let work (u t : State) : Prop := ∃ a b c,
      let cutDue := a.timer.pixel = a.cfg.width.toNat
        ∧ ∃ f, a.pixel.fetch = some f ∧ (a.pixel.buffer f.buffer).line = some a.timer.line
      exec (.fetchIssue u.timer.line) u = .next a
      ∧ (cutDue → exec .fetchCut a = .next b) ∧ (¬ cutDue → b = a)
      ∧ (b.pixel.requestedHere = false → exec .readRequestIssue b = .next c) ∧ (b.pixel.requestedHere = true → c = b)
      ∧ exec (.activePixelScan c.timer.line c.timer.pixel) c = .next t ∧ t.clockOwed = false
    (s.timer.running = false → step s = .next s)
    ∧ (s.clockOwed = true ↔
      (s.timer.pixel = 0 ∧ s.pixel.issuedHere = false
        ∧ (s.timer.line + 1 < s.cfg.height.toNat ∨ s.timer.line + 1 = frameLines s.cfg s.timer))
      ∨ (s.timer.running = true ∧ s.pixel.requestedHere = false ∧ ∃ f y, s.pixel.fetch = some f
        ∧ (s.pixel.buffer f.buffer).line = some y ∧ f.issued < s.cfg.width.toNat)
      ∨ (s.timer.line < s.cfg.height.toNat ∧ s.timer.pixel < s.cfg.width.toNat ∧ s.pixel.scannedHere = false))
    ∧ s.nextPosition = (if s.timer.pixel + 1 < lineClocks s.cfg s.timer s.timer.line then
        some (s.timer.line, s.timer.pixel + 1)
      else if s.timer.line + 1 < frameLines s.cfg s.timer then some (s.timer.line + 1, 0) else none)
    ∧ (s.timer.running = true → s.clockOwed = true → ∃ t, step s = .next t ∧ work s t ∧ t.timer = s.timer
      ∧ t.cfg = s.cfg ∧ t.port = s.port ∧ t.pending = [] ∧ t.wall = s.wall ∧ t.edit = s.edit ∧ t.peers = s.peers
      ∧ t.ctl = s.ctl ∧ t.catchUp = s.catchUp ∧ t.bus = s.bus ∧ t.freeCount = s.freeCount)
    ∧ (s.timer.running = true → s.clockOwed = false → ∃ u t, step s = .next t ∧ work u t ∧ t.cfg = s.cfg ∧ t.port = s.port
      ∧ t.pending = []
      ∧ (∀ line pixel, s.nextPosition = some (line, pixel) →
          u = { s with
            timer := { s.timer with line := line, pixel := pixel }
            pixel := { s.pixel with
              rgb := Colour.black, issuedHere := false, requestedHere := false, scannedHere := false } }
          ∧ t.timer = u.timer ∧ t.wall = s.wall ∧ t.edit = s.edit ∧ t.peers = s.peers
          ∧ t.ctl = s.ctl ∧ t.catchUp = s.catchUp ∧ t.bus = s.bus ∧ t.freeCount = s.freeCount)
      ∧ (s.nextPosition = none →
          (∃ order v, exec (.frameStart order) s = .next v ∧ u = { v with freeCount := s.freeCount + 1 })
          ∧ t.timer.frame = s.timer.frame + s.timer.advance.getD 1 ∧ t.timer.line = 0 ∧ t.timer.pixel = 0
          ∧ t.freeCount = s.freeCount + 1))

/-- A power-on reset and the reset pin put every block at its reset values; a RESET command does the same but keeps the record,
the running timer and the trim. After each the event queue is empty and answers due at the memory port are to be discarded. The
pairs of the captures stay at a RESET without their valid flags (log 10); the kept response is the model's (log 8); that a RESET
leaves the port in its response phase is log 6; the reset values of the Bus Interface and the Pixel Path take the time of the
beacon start record, the pans of the line buffers and the request of the memory port from log 9, what the station drives from
log 35, and the marks of the scan position from log 37. -/
def Obligations.ResetsLoadTheResetValues : Prop :=
  (∀ (i : Instr) (s : State), i = .powerOnReset ∨ i = .resetPin →
    ∃ t, exec i s = .next t ∧ t.wall = State.reset.wall ∧ t.edit = State.reset.edit ∧ t.peers = State.reset.peers
      ∧ t.timer = State.reset.timer ∧ t.ctl = State.reset.ctl ∧ t.catchUp = State.reset.catchUp ∧ t.bus = State.reset.bus
      ∧ t.cfg = State.reset.cfg ∧ t.events = [] ∧ t.pixel = PixelPath.reset (s.pixel.givenUp + s.pixel.outstanding)
      ∧ t.port = ⟨if s.port.phase = .idle then .idle else .held, none⟩)
  ∧ ∀ (f : List Byte) (s : State), readCommandFrame f = some .reset → s.port.phase = .command →
    exec (.reset f) s = .next { s with
      wall := WallState.default
      edit := EditUnit.reset
      peers := mapTable Peer.clear s.peers
      timer := ⟨s.timer.running, 0, 0, 0, 0, s.timer.trim, .free, 0, none⟩
      ctl := RoleControl.reset
      catchUp := CatchUp.reset
      bus := Bus.reset
      pixel := PixelPath.reset (s.pixel.givenUp + s.pixel.outstanding)
      port := ⟨.response, some ⟨.done, none, []⟩⟩
      events := [] }

/-- The values that the tables of the chapters give for a power-on reset; the marks of the scan position are log 37's. -/
def Obligations.ResetStateHoldsTheTabledValues : Prop :=
  (∀ i, i < 256 → State.reset.wall.palette[i]? = some ⟨BitVec.ofNat 10 (4 * i), BitVec.ofNat 10 (4 * i), BitVec.ofNat 10 (4 * i)⟩)
  ∧ State.reset.wall.panX = 0 ∧ State.reset.wall.panY = 0 ∧ State.reset.wall.level = 255 ∧ State.reset.wall.blank = false
  ∧ State.reset.wall.version = 0 ∧ State.reset.wall.valid = false
  ∧ (∀ i, State.reset.entryAt i = none) ∧ State.reset.poolFree = 1024 ∧ State.reset.edit.refusals = []
  ∧ State.reset.edit.outcomes = [] ∧ State.reset.edit.sequence = 0
  ∧ (∀ (n : Nat) (p : Peer), State.reset.peers[n]? = some p →
      p.state = .absent ∧ p.seen = false ∧ p.misses = 0 ∧ p.reported = none ∧ p.capture.valid = false ∧ p.offset = none
      ∧ p.verdict = .none)
  ∧ State.reset.timer = ⟨false, 0, 0, 0, 0, 512, .free, 0, none⟩
  ∧ State.reset.ctl = ⟨.offline, 0, false, 0, 0, .armed, none⟩
  ∧ State.reset.catchUp.req = ⟨.idle, 0, none, none, none, [], none, none, false, none⟩
  ∧ State.reset.catchUp.resp.state = .idle ∧ State.reset.catchUp.resp.requester = none ∧ State.reset.catchUp.resp.cursor = 0
  ∧ State.reset.catchUp.resp.torn = false ∧ State.reset.catchUp.resp.owed = none
  ∧ (∀ i, i < 256 → State.reset.catchUp.buffer[i]? = some none)
  ∧ State.reset.bus.attempt = none ∧ State.reset.bus.abandonStreak = 0 ∧ State.reset.bus.corruptStreak = 0
  ∧ State.reset.bus.startValid = false ∧ State.reset.bus.renewal = false ∧ State.reset.bus.beacon = none
  ∧ State.reset.pixel.bufferA.line = none ∧ State.reset.pixel.bufferB.line = none ∧ State.reset.pixel.fetch = none
  ∧ State.reset.pixel.queued = none ∧ State.reset.pixel.underrun = false
  ∧ State.reset.pixel.latched = ⟨State.reset.wall.palette, 0, 0, 255, false, false⟩ ∧ State.reset.pixel.rgb = Colour.black
  ∧ State.reset.pixel.issuedHere = false ∧ State.reset.pixel.requestedHere = false ∧ State.reset.pixel.scannedHere = false
  ∧ State.reset.cfg = ⟨0, 0, 0, 0, 0, 0, 0, 0, 0, 0, 0, false, false⟩
  ∧ State.reset.port.phase = .idle ∧ State.reset.events = [] ∧ State.reset.interrupt = false

/-! ### The control port -/

/-- Select takes an idle port to the command phase; deselect, before or after the completion, makes it idle. The bits shifted in
during the response phase, or while select is held from before a reset, are ignored. At an idle port a command row stands for a
whole transaction, which ends idle (log 6). On data-out the station shifts 00h in the command phase, and in the response phase the
response frame: code (a free value, log 27), reason, payload length, payload and frame check, then 00h for as long as select stays
asserted. Without a transaction it shifts nothing (log 6). -/
def Obligations.TransactionsFollowThePhaseOfThePort : Prop :=
  (∀ s : State,
    (s.port.phase = .idle → exec .transactionSelect s = .next { s with port := { s.port with phase := .command } })
    ∧ (s.port.phase ≠ .idle → exec .transactionSelect s = .next s)
    ∧ exec .transactionDeselect s = .next { s with port := { s.port with phase := .idle } }
    ∧ exec .transactionVoided s = .next { s with port := { s.port with phase := .idle } })
  ∧ (∀ (i : Instr) (f : List Byte) (s : State), i.controlFrame = some f → s.port.phase = .response ∨ s.port.phase = .held →
    exec i s = .next s)
  ∧ (∀ (f : List Byte) (s : State) (act : Request → Option (State × Response)), s.port.phase = .idle →
      s.transact f act = match (readCommandFrame f).bind act with
        | some (s', r) => { s' with port := ⟨.idle, some r⟩ }
        | none => { s with port := ⟨.idle, some ⟨.refused, some .invalid, []⟩⟩ })
  ∧ (∀ (s : State) (k : Nat),
    (s.port.phase = .command → s.dataOut k = some 0)
    ∧ (∀ r, s.port.phase = .response → s.port.response = some r →
      (k < r.bytes.length → s.dataOut k = r.bytes[k]?) ∧ (r.bytes.length ≤ k → s.dataOut k = some 0))
    ∧ (s.port.phase = .idle ∨ s.port.phase = .held → s.dataOut k = none))
  ∧ ∀ r : Response, ∃ body : List Byte, r.bytes = body ++ bytes2 (frameCheck body)
    ∧ body = [Config.responseCodeByte r.code,
        match r.reason with
        | none => 0 | some .frozen => 1 | some .state => 2 | some .invalid => 3 | some .notMember => 4 | some .full => 5
        | some .noRoom => 6 | some .conflict => 7]
      ++ bytes2 (BitVec.ofNat 16 r.payload.length) ++ r.payload

/-- A frame is a command exactly when its check value agrees, its code names a command and its parameter length is the one
the layout requires; one that fails is refused with INVALID and changes no state. -/
def Obligations.FramesThatFailTheChecksAreRefused : Prop :=
  (∀ (code : Byte) (params : List Byte) (check : Half), params.length < 65536 →
    ((readCommandFrame (code :: (bytes2 (BitVec.ofNat 16 params.length) ++ params ++ bytes2 check))).isSome = true ↔
      check = frameCheck (code :: (bytes2 (BitVec.ofNat 16 params.length) ++ params)) ∧ code ∈ commandCodes
      ∧ requiredLength code params.length))
  ∧ ∀ (i : Instr) (f : List Byte) (s : State), i.controlFrame = some f → readCommandFrame f = none →
      s.port.phase = .command →
      exec i s = .next { s with port := ⟨.response, some ⟨.refused, some .invalid, []⟩⟩ }

/-- STATUS and the read commands report what is held at the completion and change nothing but the port, in the layouts of 10.7.
READ-PEER of the own index and of an ABSENT entry returns 48 zeros, the values of a cleared entry (log 10); an absent field is
sent as 0. READ-EDIT of an empty index returns the absent indication alone. A set is sent as the bits of its members. -/
def Obligations.ReadsReportTheStateAndChangeNothing : Prop :=
  ([Role.offline, .listen, .align, .member, .leaving, .detached].map Role.code = [0, 1, 2, 3, 4, 5]
    ∧ [Lock.free, .settling, .locked].map Lock.code = [0, 1, 2]
    ∧ [PeerState.absent, .heard, .live, .silent, .incompatible].map PeerState.code = [0, 1, 2, 3, 4]
    ∧ [Verdict.none, .agree, .differ].map Verdict.code = [0, 1, 2]
    ∧ [Holding.own, .voter, .observer].map Holding.code = [0, 1, 2]
    ∧ [EditState.sending, .awaiting, .collecting, .accepted, .complete, .taken, .inDoubt].map EditState.code
      = [0, 1, 2, 3, 4, 5, 6])
  ∧ ∀ (f : List Byte) (s : State), s.port.phase = .command →
    (readCommandFrame f = some .status →
      exec (.status f) s = .next { s with port := ⟨.response, some ⟨.done, none,
        [s.ctl.role.code, s.timer.lock.code] ++ bytes4 s.timer.frame ++ bytes2 s.wall.version
        ++ [flagBits s.wall.valid s.ctl.stale s.cfg.valid s.cfg.frozen false] ++ bytes2 (BitVec.ofNat 16 s.timer.trim.toNat)
        ++ [BitVec.ofNat 8 s.liveCount, BitVec.ofNat 8 s.ownCount, BitVec.ofNat 8 s.events.length]⟩⟩ })
    ∧ (∀ index, readCommandFrame f = some (.readPeer index) →
      (32 ≤ index.toNat →
        exec (.readPeer f) s = .next { s with port := ⟨.response, some ⟨.refused, some .invalid, []⟩⟩ })
      ∧ (∀ p, s.peers[index.toNat]? = some p → index = s.cfg.station ∨ p.state = .absent →
        exec (.readPeer f) s = .next { s with port := ⟨.response, some ⟨.done, none, List.replicate 48 0⟩⟩ })
      ∧ (∀ p, s.peers[index.toNat]? = some p → index ≠ s.cfg.station → p.state ≠ .absent →
        exec (.readPeer f) s = .next { s with port := ⟨.response, some ⟨.done, none,
          [p.state.code, BitVec.ofNat 8 p.misses]
          ++ (match p.reported with
            | some r => [r.role.code, flagBits true r.locked p.capture.valid ((p.offset.map (·.fresh)).getD false) false]
                ++ bytes2 r.version ++ bytes4 r.frame
            | none => [0, flagBits false false p.capture.valid ((p.offset.map (·.fresh)).getD false) false]
                ++ List.replicate 6 0)
          ++ bytes4 p.capture.senderFrame ++ bytes4 p.capture.own.frame ++ bytes4 (BitVec.ofNat 32 p.capture.own.phase)
          ++ (match p.offset with
            | some o => (match o.value with
                | .value v => (1 : Byte) :: (bytes4 ((BitVec.ofInt 64 v).extractLsb' 32 32)
                    ++ bytes4 ((BitVec.ofInt 64 v).extractLsb' 0 32))
                | .farAhead => 2 :: List.replicate 8 0
                | .farBehind => 3 :: List.replicate 8 0)
                ++ bytes4 o.own.frame ++ bytes4 (BitVec.ofNat 32 o.own.phase)
                ++ bytes4 o.peer.frame ++ bytes4 (BitVec.ofNat 32 o.peer.phase)
            | none => List.replicate 25 0)
          ++ [p.verdict.code]⟩⟩ }))
    ∧ (∀ index, readCommandFrame f = some (.readEdit index) →
      (16 ≤ index.toNat →
        exec (.readEdit f) s = .next { s with port := ⟨.response, some ⟨.refused, some .invalid, []⟩⟩ })
      ∧ (index.toNat < 16 → s.entryAt index.toNat = none →
        exec (.readEdit f) s = .next { s with port := ⟨.response, some ⟨.done, none, [0]⟩⟩ })
      ∧ (∀ (e : EditEntry) (received : BitVec 56) (voters pending : BitVec 32), s.entryAt index.toNat = some e →
        (∀ j, j < 56 → received.getLsbD j = decide (j ∈ e.received.getD [])) →
        (∀ j, j < 32 → voters.getLsbD j = decide (BitVec.ofNat 8 j ∈ e.voters.getD [])) →
        (∀ j, j < 32 → pending.getLsbD j = decide (BitVec.ofNat 8 j ∈ e.pendingVoters.getD [])) →
        exec (.readEdit f) s = .next { s with port := ⟨.response, some ⟨.done, none,
          [1, e.id.proposer, e.id.sequence]
          ++ [match e.target with | .palette .. => 0 | .pan .. => 1 | .level _ => 2 | .blank _ => 3]
          ++ bytes4 e.takeFrame
          ++ (match e.target with
            | .palette start count check => start :: (bytes2 count ++ bytes2 check)
            | .pan x y => bytes2 x ++ bytes2 y ++ [0]
            | .level value => [value, 0, 0, 0, 0]
            | .blank on => [if on then 1 else 0, 0, 0, 0, 0])
          ++ (match e.target with | .palette _ count _ => bytes2 count | _ => [0, 0])
          ++ [e.holding.code, e.state.code,
            flagBits (decide (e.proposed = some true)) e.late e.deferred e.queryWait.isSome false]
          ++ bytes3 (received.extractLsb' 32 24) ++ bytes4 (received.extractLsb' 0 32) ++ bytes4 voters ++ bytes4 pending
          ++ [BitVec.ofNat 8 (e.cursor.getD 0), BitVec.ofNat 8 (e.queryTries.getD 0), BitVec.ofNat 8 (e.queryWait.getD 0),
            match e.owed with | some o => o.kind.code | none => 0]⟩⟩ }))
    ∧ (∀ index c, readCommandFrame f = some (.readPalette index) → s.wall.palette[index.toNat]? = some c →
      exec (.readPalette f) s = .next { s with port := ⟨.response, some ⟨.done, none, index :: c.bytes⟩⟩ })

/-- READ-EVENT removes the head of the queue and returns it with all its fields, the overrun mark included; on an empty queue
the response is EMPTY and nothing changes. -/
def Obligations.ReadEventRemovesTheHead : Prop :=
  ∀ (f : List Byte) (s : State), readCommandFrame f = some .readEvent → s.port.phase = .command →
    (∀ e rest, s.events = e :: rest →
      exec (.readEvent f) s = .next { s with events := rest, port := ⟨.response, some ⟨.done, none,
        [e.kind.code, flagBits e.station.isSome e.id.isSome e.reason.isSome e.role.isSome e.overrun] ++ bytes4 e.frame
        ++ [e.station.getD 0] ++ (e.id.getD ⟨0, 0⟩).bytes
        ++ [(e.reason.map Reason.code).getD 0, (e.role.map Role.code).getD 0]⟩⟩ })
    ∧ (s.events = [] → exec (.readEvent f) s = .next { s with port := ⟨.response, some ⟨.empty, none, []⟩⟩ })

/-- CONFIGURE is tested in three steps, and replaces the whole record when it passes them. -/
def Obligations.ConfigureTestsThenReplacesTheRecord : Prop :=
  ∀ (f : List Byte) (g : Geometry) (s : State), readCommandFrame f = some (.configure g) → s.port.phase = .command →
    (s.cfg.frozen = true → exec (.configure f) s = .next { s with port := ⟨.response, some ⟨.refused, some .frozen, []⟩⟩ })
    ∧ (s.cfg.frozen = false → s.ctl.role ≠ .offline →
      exec (.configure f) s = .next { s with port := ⟨.response, some ⟨.refused, some .state, []⟩⟩ })
    ∧ (s.cfg.frozen = false → s.ctl.role = .offline →
      (g.station.toNat ≤ 31 ∧ 128 ≤ g.lineLength.toNat ∧ g.lineLength.toNat ≤ 8191 ∧ 16 ≤ g.lines.toNat
        ∧ g.lines.toNat ≤ 4095 ∧ 16 ≤ g.width.toNat ∧ g.width.toNat ≤ g.lineLength.toNat - 16 ∧ 8 ≤ g.height.toNat
        ∧ g.height.toNat ≤ g.lines.toNat - 2 ∧ 1 ≤ g.canvasWidth.toNat ∧ 1 ≤ g.canvasHeight.toNat ∧ 1 ≤ g.stride.toNat →
        exec (.configure f) s = .next { s with
          cfg := { station := g.station, lineLength := g.lineLength, lines := g.lines, width := g.width, height := g.height,
                   x0 := g.x0, y0 := g.y0, canvasWidth := g.canvasWidth, canvasHeight := g.canvasHeight, base := g.base,
                   stride := g.stride, valid := true, frozen := false }
          port := ⟨.response, some ⟨.done, none, []⟩⟩ })
      ∧ (¬ (g.station.toNat ≤ 31 ∧ 128 ≤ g.lineLength.toNat ∧ g.lineLength.toNat ≤ 8191 ∧ 16 ≤ g.lines.toNat
        ∧ g.lines.toNat ≤ 4095 ∧ 16 ≤ g.width.toNat ∧ g.width.toNat ≤ g.lineLength.toNat - 16 ∧ 8 ≤ g.height.toNat
        ∧ g.height.toNat ≤ g.lines.toNat - 2 ∧ 1 ≤ g.canvasWidth.toNat ∧ 1 ≤ g.canvasHeight.toNat ∧ 1 ≤ g.stride.toNat) →
        exec (.configure f) s = .next { s with port := ⟨.response, some ⟨.refused, some .invalid, []⟩⟩ }))

/-- JOIN from OFFLINE or DETACHED with a valid record freezes the record, starts a stopped timer and enters LISTEN; any other
JOIN is refused. That the receiver then waits for an idle gap is `gapSeen` (log 28). -/
def Obligations.JoinEntersListenWithAFrozenRecord : Prop :=
  ∀ (f : List Byte) (s : State), readCommandFrame f = some .join → s.port.phase = .command →
    (s.ctl.role ≠ .offline → s.ctl.role ≠ .detached →
      exec (.join f) s = .next { s with port := ⟨.response, some ⟨.refused, some .state, []⟩⟩ })
    ∧ (s.ctl.role = .offline ∨ s.ctl.role = .detached → s.cfg.valid = false →
      exec (.join f) s = .next { s with port := ⟨.response, some ⟨.refused, some .invalid, []⟩⟩ })
    ∧ (s.ctl.role = .offline ∨ s.ctl.role = .detached → s.cfg.valid = true →
      ∃ t, exec (.join f) s = .next t ∧ t.cfg = { s.cfg with frozen := true }
        ∧ t.ctl = { s.ctl with role := .listen, foundingWait := 0 }
        ∧ (s.timer.running = true → t.timer = { s.timer with lock := .free, lockCount := 0 })
        ∧ (s.timer.running = false → t.timer =
            { s.timer with running := true, line := 0, pixel := 0, frame := 0, correction := 0, lock := .free, lockCount := 0 })
        ∧ (s.timer.lock ≠ .locked →
            t.events = joinQueue s.events ⟨.roleChanged, t.timer.frame, none, none, none, some .listen, false⟩)
        ∧ t.wall = s.wall ∧ t.edit = s.edit ∧ t.peers = s.peers ∧ t.catchUp = s.catchUp ∧ t.pixel = s.pixel
        ∧ t.bus.gapSeen = false ∧ t.bus.beacon = none ∧ t.bus.renewal = false
        ∧ t.port = ⟨.response, some ⟨.done, none, []⟩⟩)

/-- LEAVE takes LISTEN to OFFLINE with state-valid cleared, and ALIGN or MEMBER to LEAVING with no undecided own edit, an idle
requester and a FAREWELL owed; in the other roles it is refused. -/
def Obligations.LeaveGoesOfflineOrToLeaving : Prop :=
  ∀ (f : List Byte) (s : State), readCommandFrame f = some .leave → s.port.phase = .command →
    (s.ctl.role = .offline ∨ s.ctl.role = .leaving ∨ s.ctl.role = .detached →
      exec (.leave f) s = .next { s with port := ⟨.response, some ⟨.refused, some .state, []⟩⟩ })
    ∧ (s.ctl.role = .listen →
      ∃ t, exec (.leave f) s = .next t ∧ t.ctl.role = .offline ∧ t.wall = { s.wall with valid := false }
        ∧ (∀ i, t.entryAt i = none) ∧ t.edit.sequence = s.edit.sequence ∧ t.timer.running = s.timer.running
        ∧ t.timer.frame = s.timer.frame ∧ t.timer.trim = s.timer.trim ∧ t.cfg = s.cfg
        ∧ t.port = ⟨.response, some ⟨.done, none, []⟩⟩)
    ∧ (s.ctl.role = .align ∨ s.ctl.role = .member →
      ∃ t, exec (.leave f) s = .next t ∧ t.ctl.role = .leaving ∧ t.ctl.farewell = some ⟨.farewell, 0⟩
        ∧ (∀ i e, t.entryAt i = some e → e.holding = .own → e.state ≠ .sending ∧ e.state ≠ .awaiting)
        ∧ t.catchUp.req.state = .idle ∧ t.wall = s.wall ∧ t.timer = s.timer ∧ t.cfg = s.cfg
        ∧ t.port = ⟨.response, some ⟨.done, none, []⟩⟩)

/-- A SUBMIT that passes the five tests creates the OWN entry of R45 at the lowest empty index and advances the sequence
counter; nothing else changes. -/
def Obligations.SubmitCreatesAnOwnEntry : Prop :=
  ∀ (i : Instr) (x : Submission) (s : State), i.submits x → s.port.phase = .command →
    s.ctl.role = .member → x.inRange = true → 4 ≤ x.lead.toNat →
    s.ownCount < 4 → s.entries.length < 16 → s.findEntry ⟨s.cfg.station, s.edit.sequence⟩ = none →
    s.conflictHeld x.target = false → x.target.reservation ≤ s.poolFree →
    ∃ k, k < 16 ∧ s.entryAt k = none ∧ (∀ j, j < k → (s.entryAt j).isSome = true)
      ∧ exec i s = .next { s with
          edit := { s.edit with
            table := s.edit.table.setIfInBounds k (some
              { id := ⟨s.cfg.station, s.edit.sequence⟩, takeFrame := s.timer.frame + BitVec.ofNat 32 x.lead.toNat,
                target := x.target, staged := x.records.map some, received := none, holding := .own, state := .sending,
                proposed := some false, voters := some [], pendingVoters := some [],
                cursor := if x.target.isPalette then some 0 else none, queryTries := none, queryWait := none,
                late := false, deferred := false, owed := some ⟨.propose, 0⟩ })
            sequence := s.edit.sequence + 1 }
          port := ⟨.response, some ⟨.done, none,
            [s.cfg.station, s.edit.sequence] ++ bytes4 (s.timer.frame + BitVec.ofNat 32 x.lead.toNat)⟩⟩ }

/-- A SUBMIT is refused by the first of the five tests that fails, with that test's reason, and changes no state. That the on/off
byte of a SUBMIT-BLANK must be 0 or 1 for its contents to lie in their range is log 18. -/
def Obligations.SubmitIsRefusedByTheFirstFailingTest : Prop :=
  ∀ (i : Instr) (x : Submission) (s : State), i.submits x → s.port.phase = .command →
    (s.ctl.role ≠ .member →
      exec i s = .next { s with port := ⟨.response, some ⟨.refused, some .notMember, []⟩⟩ })
    ∧ (s.ctl.role = .member → ¬ (x.inRange = true ∧ 4 ≤ x.lead.toNat) →
      exec i s = .next { s with port := ⟨.response, some ⟨.refused, some .invalid, []⟩⟩ })
    ∧ (s.ctl.role = .member → x.inRange = true → 4 ≤ x.lead.toNat →
      ¬ (s.ownCount < 4 ∧ s.entries.length < 16 ∧ s.findEntry ⟨s.cfg.station, s.edit.sequence⟩ = none) →
      exec i s = .next { s with port := ⟨.response, some ⟨.refused, some .full, []⟩⟩ })
    ∧ (s.ctl.role = .member → x.inRange = true → 4 ≤ x.lead.toNat → s.ownCount < 4 → s.entries.length < 16 →
      s.findEntry ⟨s.cfg.station, s.edit.sequence⟩ = none →
      (∃ k e, s.entryAt k = some e ∧ e.target.conflicts x.target = true) →
      exec i s = .next { s with port := ⟨.response, some ⟨.refused, some .conflict, []⟩⟩ })
    ∧ (s.ctl.role = .member → x.inRange = true → 4 ≤ x.lead.toNat → s.ownCount < 4 → s.entries.length < 16 →
      s.findEntry ⟨s.cfg.station, s.edit.sequence⟩ = none →
      (∀ k e, s.entryAt k = some e → e.target.conflicts x.target = false) → s.poolFree < x.target.reservation →
      exec i s = .next { s with port := ⟨.response, some ⟨.refused, some .noRoom, []⟩⟩ })

/-! ### Frame starts -/

/-- A FRAME_START while the timer runs advances the frame number by one, or by the pending advance, returns the scan to line 0,
pixel 0, runs each block's work once, in the order the command gives when the spec allows it, and ends with the latch of the wall
state and the show decision; while the timer is stopped nothing happens (log 1). A pending advance makes the adopt take effect:
captures and stamps lose their valid flags, fresh offsets are used, the time of an attempt in flight becomes unusable. Of the
pieces of work: the drop of a renumber empties the edit table with RENUMBERED in index order; the promotion test makes a member of
a station in ALIGN that holds a valid state, is neither stale nor catching up, and is LOCKED; a member counts its verdicts as a
strike, a tie, a clear or a minority frame, turns stale at the second strike and posts VERSION-SPLIT at the second tie while the
latch is ARMED; an adopt in LISTEN moves the role to ALIGN with a catch-up start and a beacon owed; a renumber makes a member turn
to ALIGN, stale, and sets the stale flag in ALIGN, with a catch-up start, and in LEAVING; the beacon holder comes to owe a new
beacon in ALIGN, MEMBER and LEAVING, or marks a renewal of the one in an attempt. In the turn to ALIGN, that an owed OUTCOME
waiting for its retry is withdrawn is log 17, a DUMP-END kept as the one owed log 16, and the responder context cleared whole
log 33. -/
def Obligations.FrameStartAdvancesTheFrameAndLatches : Prop :=
  (∀ (order : List FrameWork) (s : State),
    (s.timer.running = true →
      ∃ t, exec (.frameStart order) s = .next t
        ∧ t = (((FrameWork.effective order).foldl FrameRun.work (FrameRun.start s.advanceFrame)).state).latchFrame
        ∧ t.timer.frame = s.timer.frame + s.timer.advance.getD 1 ∧ t.timer.line = 0 ∧ t.timer.pixel = 0
        ∧ t.timer.running = true
        ∧ t.pixel.latched = ⟨t.wall.palette, t.wall.panX, t.wall.panY, t.wall.level, t.wall.blank,
            (decide (t.ctl.role = .align) || decide (t.ctl.role = .member) || decide (t.ctl.role = .leaving)) && t.wall.valid⟩
        ∧ t.pixel.underrun = false ∧ t.edit.sequence = s.edit.sequence ∧ t.cfg = s.cfg ∧ t.port = s.port)
    ∧ (s.timer.running = false → exec (.frameStart order) s = .next s)
    ∧ (FrameWork.allowed order = true → FrameWork.effective order = order)
    ∧ (FrameWork.effective order).Nodup ∧ ∀ w, w ∈ FrameWork.effective order)
  ∧ (∀ x : FrameRun,
    (x.work .frameTimer).state = x.state.timerWork.1 ∧ (x.work .frameTimer).adopt = x.state.timerWork.2
    ∧ (x.work .editRenumber).state
      = (if x.adopt = some .renumber then x.state.dropAll .renumbered else x.state)
    ∧ (x.work .roleAdopt).state = (if x.adopt = some .renumber then x.state.renumberRole
        else if x.adopt = some .listen then x.state.listenToAlign else x.state)
    ∧ (x.work .promotion).state = x.state.promotion ∧ (x.work .verdictCount).state = x.state.verdictWork
    ∧ (x.work .beaconRenewal).state = x.state.beaconRenewal
    ∧ (x.state.ctl.role ≠ .listen →
      (x.work .dumpApply).state = x.state.dumpApply ∧ (x.work .applications).state = x.state.applications))
  ∧ (∀ s : State,
    let timer := { s.timer with
      frame := s.timer.frame + s.timer.advance.getD 1, advance := none, line := 0, pixel := 0 }
    (s.timer.advance = none → s.advanceFrame = { s with timer := timer })
    ∧ (s.timer.advance ≠ none → s.advanceFrame = { s with
        timer := timer
        peers := mapTable (fun p => { p with
          offset := p.offset.map fun o => { o with fresh := false }, capture := { p.capture with valid := false } }) s.peers
        bus := { s.bus with
          attempt := s.bus.attempt.map fun
            | .transmitting a => .transmitting { a with usable := false }
            | .receiving time _ => .receiving time false
          startValid := false } })
    ∧ (s.ctl.role = .offline ∨ s.ctl.role = .listen ∨ s.ctl.role = .detached → s.beaconRenewal = s)
    ∧ (s.ctl.role = .align ∨ s.ctl.role = .member ∨ s.ctl.role = .leaving →
      (∀ a, s.bus.attempt = some (.transmitting a) → a.source = .beacon → a.withdrawn = false →
        s.beaconRenewal = { s with bus := { s.bus with renewal := true } })
      ∧ ((∀ a, s.bus.attempt = some (.transmitting a) → a.source = .beacon → a.withdrawn = true) →
        s.beaconRenewal = { s with bus := { s.bus with beacon := some ⟨.beacon, 0⟩ } })))
  ∧ ∀ s : State,
    (∀ k, (s.dropAll .renumbered).entryAt k = none) ∧ (s.dropAll .renumbered).edit.outcomes = s.edit.outcomes
    ∧ (s.dropAll .renumbered).events = s.entries.foldl (fun q x => joinQueue q
        ⟨.editDropped, s.timer.frame, none, some x.2.id, some .renumbered, none, false⟩) s.events
    ∧ s.promotion = (if s.ctl.role = .align ∧ s.wall.valid = true ∧ s.ctl.stale = false ∧ s.catchUp.req.state = .idle
          ∧ s.timer.lock = .locked then
        { s with
          ctl := { s.ctl with role := .member, foundingWait := 0, strikes := 0, ties := 0, split := .armed }
          events := joinQueue s.events ⟨.roleChanged, s.timer.frame, none, none, none, some .member, false⟩ }
      else s)
    ∧ (let r := { s with peers := mapTable (fun p => { p with verdict := .none }) s.peers }
      let count (v : Verdict) : Nat := ((List.range 32).filter fun n =>
        n != s.cfg.station.toNat && decide ((s.peers[n]?.map (·.verdict)) = some v)).length
      let a := count .agree
      let d := count .differ
      (s.ctl.role ≠ .member → s.verdictWork = r)
      ∧ (s.ctl.role = .member →
        (a + 1 < d → s.ctl.strikes + 1 < 2 →
          s.verdictWork = { r with ctl := { s.ctl with strikes := s.ctl.strikes + 1, ties := 0 } })
        ∧ (a + 1 < d → 2 ≤ s.ctl.strikes + 1 →
          { r with
            ctl := { s.ctl with stale := true }
            events := joinQueue s.events ⟨.stale, s.timer.frame, none, none, none, none, false⟩ }.turned s.verdictWork)
        ∧ (d = a + 1 →
          s.verdictWork = { r with
            ctl := { s.ctl with
              strikes := 0, ties := min 2 (s.ctl.ties + 1),
              split := if 2 ≤ s.ctl.ties + 1 then .fired else s.ctl.split }
            events := if 2 ≤ s.ctl.ties + 1 ∧ s.ctl.split = .armed then
                joinQueue s.events ⟨.versionSplit, s.timer.frame, none, none, none, none, false⟩
              else s.events })
        ∧ (d = 0 → s.verdictWork = { r with ctl := { s.ctl with strikes := 0, ties := 0, split := .armed } })
        ∧ (1 ≤ d → d < a + 1 → s.verdictWork = { r with ctl := { s.ctl with strikes := 0, ties := 0 } })))
    ∧ (s.listenToAlign.ctl = { s.ctl with role := .align, foundingWait := 0 }
      ∧ s.listenToAlign.events = joinQueue s.events ⟨.roleChanged, s.timer.frame, none, none, none, some .align, false⟩
      ∧ s.listenToAlign.catchUp.req = s.catchUp.req.started
      ∧ ((∀ a, s.bus.attempt = some (.transmitting a) → a.source ≠ .beacon) →
          s.listenToAlign.bus.beacon = some ⟨.beacon, 0⟩)
      ∧ s.listenToAlign.wall = s.wall ∧ s.listenToAlign.edit = s.edit ∧ s.listenToAlign.peers = s.peers
      ∧ s.listenToAlign.timer = s.timer)
    ∧ (s.ctl.role = .member → { s with ctl := { s.ctl with stale := true } }.turned s.renumberRole)
    ∧ (s.ctl.role = .align → s.renumberRole.ctl = { s.ctl with stale := true }
      ∧ s.renumberRole.catchUp.req = s.catchUp.req.started ∧ s.renumberRole.catchUp.resp = s.catchUp.resp
      ∧ s.renumberRole.events = s.events ∧ s.renumberRole.wall = s.wall ∧ s.renumberRole.edit = s.edit
      ∧ s.renumberRole.peers = s.peers ∧ s.renumberRole.timer = s.timer)
    ∧ (s.ctl.role = .leaving → s.renumberRole = { s with ctl := { s.ctl with stale := true } })

/-- Outside the resets the values of the wall state change only at frame starts, and between them state-valid can only be
cleared. -/
def Obligations.WallValuesChangeOnlyAtFrameStarts : Prop :=
  ∀ (c : Instr) (s t : State), c.isReset = false → c.frameOrder = none → exec c s = .next t →
    t.wall.palette = s.wall.palette ∧ t.wall.panX = s.wall.panX ∧ t.wall.panY = s.wall.panY ∧ t.wall.level = s.wall.level
    ∧ t.wall.blank = s.wall.blank ∧ t.wall.version = s.wall.version ∧ (t.wall.valid = true → s.wall.valid = true)

/-- PEER_SILENT: at the third frame start without a beacon a LIVE entry becomes SILENT, whatever the order of the blocks' work.
That the row is the frame start at which this occurs is log 2. -/
def Obligations.ThreeMissesMakeAPeerSilent : Prop :=
  ∀ (peer : Station) (order : List FrameWork) (s : State) (p : Peer),
    s.timer.running = true → peer ≠ s.cfg.station → s.peers[peer.toNat]? = some p → p.state = .live → p.seen = false →
    p.misses = 2 →
    ∃ t q, exec (.peerSilent peer order) s = .next t ∧ t.peers[peer.toNat]? = some q
      ∧ q.state = .silent ∧ q.misses = 3 ∧ q.seen = false ∧ q.reported = p.reported
      ∧ q.offset = p.offset.map fun o => { o with fresh := false }

/-- FOUNDING: the founding wait reaches 32 in LISTEN with no LIVE member peer; the wall state is established, and with no peer,
no entry and an idle requester it has the default values and the role is MEMBER. That the row is that frame start is log 2. -/
def Obligations.FoundingEstablishesTheDefaultState : Prop :=
  ∀ (order : List FrameWork) (s : State),
    s.timer.running = true → s.ctl.role = .listen → s.ctl.foundingWait = 31 →
    (∀ n p, s.peerAt n = some p → ¬ (p.state = .live ∧ p.reportedRole = some .member)) →
    ∃ t, exec (.founding order) s = .next t ∧ t.wall.valid = true ∧ t.ctl.foundingWait = 0
      ∧ (s.alone → (∀ i, s.entryAt i = none) → s.catchUp.req.state = .idle →
          t.ctl.role = .member
          ∧ t.wall = ⟨tabulate 256 greyRamp, 0, 0, 255, false, 0, true⟩)

/-- FOUNDING_WAIT_EXPIRY_ALIGN: the founding wait reaches 32 in ALIGN at a station that hears no peer: with a valid state it
becomes MEMBER, without one LISTEN; the stale flag is cleared and the requester context aborted. That the row is that frame
start is log 2. -/
def Obligations.AlignWaitExpiryMakesAMemberOrAListener : Prop :=
  ∀ (order : List FrameWork) (s : State),
    s.timer.running = true → s.ctl.role = .align → s.ctl.foundingWait = 31 → s.alone → s.catchUp.req.state ≠ .applyPending →
    (s.wall.valid = true → s.ctl.stale = true ∨ s.timer.lock ≠ .locked →
      ∃ t, exec (.foundingWaitExpiryAlign order) s = .next t ∧ t.ctl.role = .member ∧ t.ctl.stale = false
        ∧ t.ctl.foundingWait = 0 ∧ t.wall.valid = true ∧ t.catchUp.req = Requester.reset)
    ∧ (s.wall.valid = false →
      ∃ t, exec (.foundingWaitExpiryAlign order) s = .next t ∧ t.ctl.role = .listen ∧ t.ctl.stale = false
        ∧ t.ctl.foundingWait = 0 ∧ t.timer.lock = .free ∧ t.bus.beacon = none ∧ t.catchUp.req = Requester.reset)

/-- QUERY_WAIT_EXPIRY: at a station that hears no peer, the first expiry of an entry's query wait brings the second try and
the second expiry removes the entry. That the row is that frame start is log 2. -/
def Obligations.QueryWaitExpiryAsksAgainOrGivesUp : Prop :=
  ∀ (id : EditId) (order : List FrameWork) (s : State) (k : Nat) (e : EditEntry),
    s.timer.running = true → s.alone → s.entryAt k = some e → e.id = id → e.state = .inDoubt → e.deferred = false →
    e.queryWait = some 1 →
    (e.queryTries = some 1 →
      ∃ t e', exec (.queryWaitExpiry id order) s = .next t ∧ t.entryAt k = some e' ∧ e'.state = .inDoubt
        ∧ e'.queryTries = some 2 ∧ e'.queryWait = some 8 ∧ e'.owed.map (·.kind) = some .query)
    ∧ (e.queryTries = some 2 → ∃ t, exec (.queryWaitExpiry id order) s = .next t ∧ t.entryAt k = none)

/-- ASK_WAIT_EXPIRY, RECEIVE_WAIT_EXPIRY and RETRY_WAIT_EXPIRY in ALIGN with no LIVE peer: the first two are failed tries, the
fourth of which leads to RETRY-WAIT for 64 frames, and the third begins a new cycle. That the rows are those frame starts is
log 2. -/
def Obligations.RequesterWaitsExpireAsFailedTries : Prop :=
  ∀ (order : List FrameWork) (s : State),
    s.timer.running = true → s.ctl.role = .align → s.ctl.foundingWait < 31 →
    (∀ n p, s.peerAt n = some p → p.state ≠ .live) →
    (∀ i, i = Instr.askWaitExpiry order ∧ s.catchUp.req.state = .asking ∧ s.catchUp.req.askWait = some 1
        ∨ i = Instr.receiveWaitExpiry order ∧ s.catchUp.req.state = .receiving ∧ s.catchUp.req.receiveWait = some 1 →
      ∃ t, exec i s = .next t ∧ t.catchUp.req.tries = s.catchUp.req.tries + 1 ∧ t.catchUp.req.responder = none
        ∧ t.catchUp.req.header = none ∧ t.catchUp.req.received = [] ∧ t.catchUp.req.askWait = none
        ∧ t.catchUp.req.receiveWait = none ∧ t.catchUp.buffer = emptyBuffer
        ∧ (s.catchUp.req.tries + 1 < 4 → t.catchUp.req.state = .asking ∧ t.catchUp.req.owed = some ⟨.dumpRequest, 0⟩)
        ∧ (4 ≤ s.catchUp.req.tries + 1 →
            t.catchUp.req.state = .retryWait ∧ t.catchUp.req.retryWait = some 64 ∧ t.catchUp.req.owed = none))
    ∧ (s.catchUp.req.state = .retryWait → s.catchUp.req.retryWait = some 1 →
      ∃ t, exec (.retryWaitExpiry order) s = .next t ∧ t.catchUp.req.state = .asking ∧ t.catchUp.req.tries = 0
        ∧ t.catchUp.req.owed = some ⟨.dumpRequest, 0⟩ ∧ t.catchUp.req.retryWait = none ∧ t.catchUp.req.askWait = none)

/-- An application writes the target of one edit and nothing else of the wall state, raises the version by one, posts EDIT-TAKEN
and removes the entry, whether or not state-valid is set. The due entries of a frame start are those TAKEN and not deferred
that are late, or whose take frame is not later than the frame beginning: the on-time ones in edit-id order, then the late ones
in edit-id order, are applied when the requester context is IDLE, and else deferred, a late one setting the missed flag. A dump
apply loads the dump, drops the deferred entries not later than its frame F, applies the other deferred ones by their distance
from F, posts DUMP-DONE, clears the stale flag, and leaves the context IDLE, or in a new cycle when the missed flag was set. -/
def Obligations.ApplicationWritesTheTargetAndRaisesTheVersion : Prop :=
  (∀ (s : State) (i : Nat) (e : EditEntry),
    (s.applyEntry i e).wall.version = s.wall.version + 1
    ∧ (s.applyEntry i e).wall.valid = s.wall.valid
    ∧ (s.applyEntry i e).events = joinQueue s.events ⟨.editTaken, s.timer.frame, none, some e.id, none, none, false⟩
    ∧ (s.applyEntry i e).entryAt i = none
    ∧ (∀ start count check, e.target = .palette start count check →
      (∀ k c, k < count.toNat → start.toNat + k < 256 → e.staged[k]? = some (some c) →
        (s.applyEntry i e).wall.palette[start.toNat + k]? = some c)
      ∧ (∀ k, k < start.toNat ∨ start.toNat + count.toNat ≤ k →
        (s.applyEntry i e).wall.palette[k]? = s.wall.palette[k]?))
    ∧ (∀ x y, e.target = .pan x y → (s.applyEntry i e).wall.panX = x ∧ (s.applyEntry i e).wall.panY = y)
    ∧ (∀ value, e.target = .level value → (s.applyEntry i e).wall.level = value)
    ∧ (∀ on, e.target = .blank on → (s.applyEntry i e).wall.blank = on)
    ∧ (e.target.isPalette = false → (s.applyEntry i e).wall.palette = s.wall.palette)
    ∧ ((∀ x y, e.target ≠ .pan x y) →
      (s.applyEntry i e).wall.panX = s.wall.panX ∧ (s.applyEntry i e).wall.panY = s.wall.panY)
    ∧ ((∀ value, e.target ≠ .level value) → (s.applyEntry i e).wall.level = s.wall.level)
    ∧ ((∀ on, e.target ≠ .blank on) → (s.applyEntry i e).wall.blank = s.wall.blank))
  ∧ (∀ s : State,
    ∃ onTime late : List (Nat × EditEntry),
      (∀ x, x ∈ onTime ↔ s.entryAt x.1 = some x.2 ∧ x.2.state = .taken ∧ x.2.late = false ∧ x.2.deferred = false
        ∧ frameDiff x.2.takeFrame s.timer.frame ≤ 0)
      ∧ (∀ x, x ∈ late ↔ s.entryAt x.1 = some x.2 ∧ x.2.state = .taken ∧ x.2.late = true ∧ x.2.deferred = false)
      ∧ (onTime ++ late).Nodup
      ∧ onTime.Pairwise (fun x y => EditId.before y.2.id x.2.id = false)
      ∧ late.Pairwise (fun x y => EditId.before y.2.id x.2.id = false)
      ∧ (s.catchUp.req.state = .idle → s.applications = (onTime ++ late).foldl (fun s x => s.applyEntry x.1 x.2) s)
      ∧ (s.catchUp.req.state ≠ .idle →
        s.applications.wall = s.wall ∧ s.applications.events = s.events
        ∧ s.applications.catchUp = { s.catchUp with
            req := { s.catchUp.req with missed := s.catchUp.req.missed || !late.isEmpty } }
        ∧ ∀ k, s.applications.entryAt k = (s.entryAt k).map fun e =>
            if (k, e) ∈ onTime ++ late then { e with deferred := true } else e))
  ∧ ∀ s : State,
    (s.catchUp.req.state ≠ .applyPending → s.dumpApply = s)
    ∧ (∀ h, s.catchUp.req.state = .applyPending → s.catchUp.req.header = some h →
      ∃ survivors : List (Nat × EditEntry),
        (∀ x, x ∈ survivors ↔ s.entryAt x.1 = some x.2 ∧ x.2.deferred = true ∧ 0 < frameDiff x.2.takeFrame h.frame)
        ∧ survivors.Nodup
        ∧ survivors.Pairwise (fun x y => frameDiff x.2.takeFrame h.frame < frameDiff y.2.takeFrame h.frame
            ∨ (frameDiff x.2.takeFrame h.frame = frameDiff y.2.takeFrame h.frame ∧ EditId.before y.2.id x.2.id = false))
        ∧ s.dumpApply.wall = survivors.foldl (fun w x => w.apply x.2)
            ⟨mapTable recordOr s.catchUp.buffer, h.panX, h.panY, h.level, h.blank, h.version, true⟩
        ∧ s.dumpApply.events = joinQueue
            (survivors.foldl (fun q x => joinQueue q ⟨.editTaken, s.timer.frame, none, some x.2.id, none, none, false⟩) s.events)
            ⟨.dumpDone, s.timer.frame, s.catchUp.req.responder, none, none, none, false⟩
        ∧ (∀ k, s.dumpApply.entryAt k = (s.entryAt k).bind fun e => if e.deferred then none else some e)
        ∧ s.dumpApply.ctl = { s.ctl with stale := false }
        ∧ s.dumpApply.catchUp.buffer = emptyBuffer
        ∧ (s.catchUp.req.missed = false → s.dumpApply.catchUp.req
            = { s.catchUp.req with state := .idle, tries := 0, responder := none, header := none })
        ∧ (s.catchUp.req.missed = true → s.dumpApply.catchUp.req
            = { s.catchUp.req with
                state := .asking, tries := 0, askWait := none, responder := none, header := none, received := [],
                receiveWait := none, retryWait := none, missed := false, owed := some ⟨.dumpRequest, 0⟩ }))

/-- The frame-start deadlines, on each entry by itself: own undecided entries and collecting entries with t − f at most 2 leave
the table, accepted voters whose take frame has come go in doubt, complete observers leave sixteen frames on. The query waits: the
wait of an entry in doubt falls by one; one that runs out brings the second try, a QUERY still owed and not in an attempt staying
the one owed (log 17), or the removal with EDIT-DROPPED NO-OUTCOME, in index order (log 11); no outcome is recorded. The waits of
the requester: the ask, receive and retry wait fall by one; the expiry of the first two, and the loss of the responder, whose entry
is ABSENT or INCOMPATIBLE, are a failed try, and the expiry of the third begins a new cycle. The founding wait: 0 with a LIVE member,
else one higher; at 32 it founds a wall in LISTEN, and in ALIGN the role becomes MEMBER, or LISTEN without a valid state, with the
stale flag cleared and the requester context aborted. -/
def Obligations.FrameStartDeadlinesActOnTheirEntries : Prop :=
  (∀ (s : State) (k : Nat) (e : EditEntry), s.entryAt k = some e →
    (s.ownDeadlines.entryAt k =
      if e.holding = .own ∧ (e.state = .sending ∨ e.state = .awaiting) ∧ frameDiff e.takeFrame s.timer.frame ≤ 2 then none
      else some e)
    ∧ (s.collectionDeadlines.entryAt k =
      if e.state = .collecting ∧ frameDiff e.takeFrame s.timer.frame ≤ 2 then none else some e)
    ∧ (s.goInDoubt.entryAt k =
      if e.holding = .voter ∧ e.state = .accepted ∧ ¬ (0 < frameDiff e.takeFrame s.timer.frame) then
        some { e with state := .inDoubt, queryTries := some 1, queryWait := some 8, owed := some ⟨.query, 0⟩ }
      else some e)
    ∧ (s.observerExpiry.entryAt k =
      if e.holding = .observer ∧ e.state = .complete ∧ 16 ≤ frameDiff s.timer.frame e.takeFrame then none else some e)
    ∧ (e.state ≠ .inDoubt ∨ e.queryWait = none → s.queryWaits.entryAt k = some e)
    ∧ ∀ w, e.state = .inDoubt → e.queryWait = some w →
      let inAttempt := ∃ a, s.bus.attempt = some (.transmitting a) ∧ a.source = .entry k ∧ a.withdrawn = false
      (1 < w → s.queryWaits.entryAt k = some { e with queryWait := some (w - 1) })
      ∧ (w ≤ 1 → e.queryTries = some 1 →
        (e.owed.map (·.kind) = some .query ∧ ¬ inAttempt →
          s.queryWaits.entryAt k = some { e with queryTries := some 2, queryWait := some 8 })
        ∧ (¬ (e.owed.map (·.kind) = some .query ∧ ¬ inAttempt) →
          s.queryWaits.entryAt k
            = some { e with queryTries := some 2, queryWait := some 8, owed := some ⟨.query, 0⟩ }))
      ∧ (w ≤ 1 → e.queryTries ≠ some 1 → s.queryWaits.entryAt k = none))
  ∧ (∀ s : State,
    (∀ k, s.entryAt k = none → s.queryWaits.entryAt k = none)
    ∧ s.queryWaits.edit.outcomes = s.edit.outcomes ∧ s.queryWaits.edit.refusals = s.edit.refusals
    ∧ s.queryWaits.wall = s.wall ∧ s.queryWaits.peers = s.peers ∧ s.queryWaits.timer = s.timer
    ∧ s.queryWaits.ctl = s.ctl ∧ s.queryWaits.catchUp = s.catchUp
    ∧ s.queryWaits.events = (s.entries.filter fun x =>
        decide (x.2.state = .inDoubt) && decide (x.2.queryTries ≠ some 1)
          && (match x.2.queryWait with | some w => decide (w ≤ 1) | none => false)).foldl
      (fun q x => joinQueue q ⟨.editDropped, s.timer.frame, none, some x.2.id, some .noOutcome, none, false⟩) s.events)
  ∧ (∀ s : State,
    let req := s.catchUp.req
    let runsOut (wait : Option Nat) : Prop := ∃ w, wait = some w ∧ w ≤ 1
    let lost := ∃ r p, req.responder = some r ∧ s.peerAt r.toNat = some p ∧ (p.state = .absent ∨ p.state = .incompatible)
    let present := ∃ r p, req.responder = some r ∧ s.peerAt r.toNat = some p
    let t := s.catchUpWaits
    (req.state = .idle ∨ req.state = .applyPending → t = s)
    ∧ (req.state = .asking → ¬ runsOut req.askWait →
      t = { s with catchUp := { s.catchUp with req := { req with askWait := req.askWait.map (· - 1) } } })
    ∧ (req.state = .receiving → ¬ runsOut req.receiveWait → present → ¬ lost →
      t = { s with catchUp := { s.catchUp with req := { req with receiveWait := req.receiveWait.map (· - 1) } } })
    ∧ (req.state = .retryWait → ¬ runsOut req.retryWait →
      t = { s with catchUp := { s.catchUp with req := { req with retryWait := req.retryWait.map (· - 1) } } })
    ∧ (req.state = .asking ∧ runsOut req.askWait ∨ req.state = .receiving ∧ (runsOut req.receiveWait ∨ lost) →
      let dropped := { req with
        tries := req.tries + 1, askWait := none, responder := none, header := none, received := [], receiveWait := none }
      (req.tries + 1 < 4 →
        t.catchUp = { s.catchUp with
          buffer := emptyBuffer, req := { dropped with state := .asking, owed := some ⟨.dumpRequest, 0⟩ } }
        ∧ t.events = s.events)
      ∧ (4 ≤ req.tries + 1 →
        t.catchUp = { s.catchUp with
          buffer := emptyBuffer, req := { dropped with state := .retryWait, retryWait := some 64, owed := none } }
        ∧ t.events = joinQueue s.events ⟨.dumpFailed, s.timer.frame, none, none, none, none, false⟩))
    ∧ (req.state = .retryWait → runsOut req.retryWait →
      t.catchUp = { s.catchUp with
        buffer := emptyBuffer
        req := { req with
          state := .asking, tries := 0, askWait := none, responder := none, header := none, received := [],
          receiveWait := none, retryWait := none, owed := some ⟨.dumpRequest, 0⟩ } }
      ∧ t.events = s.events)
    ∧ t.wall = s.wall ∧ t.edit = s.edit ∧ t.peers = s.peers ∧ t.timer = s.timer ∧ t.ctl = s.ctl)
  ∧ (∀ s : State,
    let waits := s.ctl.role = .listen ∨ s.ctl.role = .align
    let live := ∃ n p, s.peerAt n = some p ∧ p.state = .live ∧ p.reported.map (·.role) = some .member
    (¬ waits → s.waitWork = s)
    ∧ (waits → live → s.waitWork = { s with ctl := { s.ctl with foundingWait := 0 } })
    ∧ (waits → ¬ live → s.ctl.foundingWait + 1 < 32 →
      s.waitWork = { s with ctl := { s.ctl with foundingWait := s.ctl.foundingWait + 1 } })
    ∧ (s.ctl.role = .listen → ¬ live → 32 ≤ s.ctl.foundingWait + 1 → s.waitWork = { s with
        ctl := { s.ctl with role := .member, foundingWait := 0, strikes := 0, ties := 0, split := .armed }
        wall := ⟨tabulate 256 greyRamp, 0, 0, 255, false, 0, true⟩
        events := joinQueue s.events ⟨.roleChanged, s.timer.frame, none, none, none, some .member, false⟩ })
    ∧ (s.ctl.role = .align → ¬ live → 32 ≤ s.ctl.foundingWait + 1 → s.waitWork = s.alignExpiry)
    ∧ (s.wall.valid = true →
      s.alignExpiry.ctl = { s.ctl with
        role := .member, foundingWait := 0, stale := false, strikes := 0, ties := 0, split := .armed }
      ∧ s.alignExpiry.events
        = joinQueue s.events ⟨.roleChanged, s.timer.frame, none, none, none, some .member, false⟩
      ∧ s.alignExpiry.timer = s.timer)
    ∧ (s.wall.valid = false →
      s.alignExpiry.ctl = { s.ctl with role := .listen, foundingWait := 0, stale := false }
      ∧ s.alignExpiry.timer = { s.timer with lock := .free, lockCount := 0 }
      ∧ s.alignExpiry.bus.beacon = none ∧ s.alignExpiry.bus.renewal = false
      ∧ s.alignExpiry.events =
        let q := joinQueue s.events ⟨.roleChanged, s.timer.frame, none, none, none, some .listen, false⟩
        if s.timer.lock = .locked then joinQueue q ⟨.lockLost, s.timer.frame, none, none, none, none, false⟩ else q)
    ∧ s.alignExpiry.catchUp = { s.catchUp with req := Requester.reset, buffer := emptyBuffer }
    ∧ (∀ k, s.alignExpiry.entryAt k = (s.entryAt k).map fun e => { e with deferred := false })
    ∧ s.alignExpiry.edit.outcomes = s.edit.outcomes ∧ s.alignExpiry.wall = s.wall ∧ s.alignExpiry.peers = s.peers)
  ∧ ∀ x : FrameRun,
    (x.work .missCount).state = x.state.missCount ∧ (x.work .ownDeadlines).state = x.state.ownDeadlines
    ∧ (x.work .collectionDeadlines).state = x.state.collectionDeadlines
    ∧ (x.work .queryWaits).state = x.state.queryWaits ∧ (x.work .goInDoubt).state = x.state.goInDoubt
    ∧ (x.work .observerExpiry).state = x.state.observerExpiry
    ∧ (x.work .catchUpWaits).state = x.state.catchUpWaits
    ∧ (x.work .foundingWait).state = if x.waited then x.state else x.state.waitWork

/-! ### Frames and messages as bytes -/

/-- A command frame is read as the command it was written from. -/
def Obligations.CommandFramesReadBack : Prop :=
  ∀ r : Request, r.sendable = true → readCommandFrame r.frame = some r

/-- A tile-bus message is read as the message and the sender it was written from, and is the arrival of its kind. -/
def Obligations.MessagesReadBack : Prop :=
  ∀ (sender : Station) (m : Message), sender.toNat < 32 → m.sendable = true →
    readMessage (m.bytes sender) = .message sender m ∧ receptionCommand (m.bytes sender) = m.arrival sender

/-! ### The tile bus -/

/-- ATTEMPT_START at an idle bus: the offered message begins its attempt with its number one above its void count and the own
time as its start; a contender whose message is dominant first makes the station a receiver, and its message stays owed. The
contenders are the command's operand, 0 the dominant bit (log 12). Either way the station has seen an idle gap, the flag gapSeen
(log 28), and has driven nothing in the window to come (log 35). What the fourteen kinds carry, composed at that start: the beacon
the live fields and the beacon start record as its stamp; FAREWELL and DUMP-REQUEST the own number; REFUSE the pair of the head of
the refusal list; an entry's PROPOSE its id, take frame and target, its DATA the staged records of the fragment at the cursor, its
TAKE, ACCEPT and QUERY its id; an outcome entry's DROP its reason, its OUTCOME its result; the responder's DUMP-BEGIN the own frame
and the wall state, its DUMP-DATA the live palette entries of the fragment at the cursor, its DUMP-END the torn flag and the check
value of the live palette. -/
def Obligations.AttemptsBeginWithTheOfferedMessage : Prop :=
  (∀ (rivals : List (List Byte)) (s : State) (src : Source) (o : Owed) (m : Message),
    s.bus.attempt = none → s.offered = some (src, o) → s.compose src o.kind = some m →
    ((∀ r ∈ rivals, dominates r (m.bytes s.cfg.station) = false) →
      exec (.attemptStart rivals) s = .next { s with
        bus := { s.bus with
          attempt := some (.transmitting ⟨src, m, o.voids + 1, ownTime s.cfg s.timer, true, false⟩), gapSeen := true,
          driven := .nothing }
        catchUp := if o.kind = .dumpBegin then
            { s.catchUp with resp := { s.catchUp.resp with torn := false, windowOpen := true } }
          else s.catchUp })
    ∧ ((∃ r ∈ rivals, dominates r (m.bytes s.cfg.station) = true) →
      exec (.attemptStart rivals) s = .next { s with
        bus := { s.bus with
          attempt := some (.receiving (ownTime s.cfg s.timer) true), gapSeen := true, driven := .nothing } }))
  ∧ (∀ s : State,
    s.compose .beacon .beacon = some (.beacon ⟨s.ctl.role.code, s.timer.frame, s.wall.version,
      decide (s.timer.lock = .locked), s.cfg.lineLength, s.cfg.lines, s.bus.beaconStart.frame,
      BitVec.ofNat 32 s.bus.beaconStart.phase, s.bus.startValid⟩)
    ∧ s.compose .farewell .farewell = some (.farewell s.cfg.station)
    ∧ s.compose .requester .dumpRequest = some (.dumpRequest s.cfg.station)
    ∧ (∀ r rest, s.edit.refusals = r :: rest → s.compose .refusal .refuse = some (.refuse r.id r.reason.code))
    ∧ (∀ k e, s.entryAt k = some e →
      s.compose (.entry k) .propose = some (.propose e.id e.takeFrame e.target)
      ∧ s.compose (.entry k) .take = some (.take e.id) ∧ s.compose (.entry k) .accept = some (.accept e.id)
      ∧ s.compose (.entry k) .query = some (.query e.id)
      ∧ ∀ j, e.cursor = some j →
        ∃ records : List Colour, s.compose (.entry k) .data = some (.data e.id (BitVec.ofNat 8 j) records)
          ∧ records.length = min 5 (e.staged.length - 5 * j)
          ∧ ∀ i c, i < 5 → e.staged[5 * j + i]? = some (some c) → records[i]? = some c)
    ∧ (∀ id o, s.edit.outcomes.find? (fun o => decide (o.id = id)) = some o →
      (∀ reason, o.reason = some reason → s.compose (.outcome id) .drop = some (.drop o.id reason.code))
      ∧ s.compose (.outcome id) .outcome = some (.outcome o.id o.taken))
    ∧ ∀ q, s.catchUp.resp.requester = some q →
      s.compose .responder .dumpBegin = some (.dumpBegin q
        ⟨s.timer.frame, s.wall.version, s.wall.panX, s.wall.panY, s.wall.level, s.wall.blank⟩)
      ∧ (∃ records : List Colour,
        s.compose .responder .dumpData = some (.dumpData q (BitVec.ofNat 8 s.catchUp.resp.cursor) records)
        ∧ records.length = min 5 (256 - 5 * s.catchUp.resp.cursor)
        ∧ ∀ i, i < 5 → records[i]? = s.wall.palette[5 * s.catchUp.resp.cursor + i]?)
      ∧ s.compose .responder .dumpEnd
        = some (.dumpEnd q s.catchUp.resp.torn (checkValue 0 s.wall.palette.toList)))
  ∧ (∀ (start : Nat) (cs : List Colour), (checkValue start cs).toNat
      = ((cs.zipIdx start).map fun x => 7 * x.2 + x.1.r.toNat + 3 * x.1.g.toNat + 5 * x.1.b.toNat).sum % 65536)
  ∧ [Reason.refused, .deadline, .conflict, .superseded, .renumbered, .left, .detached, .droppedByProposer, .check, .late,
      .noOutcome, .noRoom, .lead, .transmit, .receive, .duplicate].map Reason.code
    = [1, 2, 3, 4, 5, 6, 7, 8, 9, 10, 11, 12, 13, 14, 15, 16]

/-- The scheduler offers, in ALIGN, MEMBER and LEAVING, the owed message of lowest rank, the first in source order among equals.
In those roles every owed message is offerable but an ACCEPT or a REFUSE while the role is not MEMBER; in the other roles none
is. The source order: the beacon holder, the Role Controller, the head of the refusal list, the edit table by index, the outcome
list oldest first, the requester, the responder. The ranks are those of the table of message kinds. -/
def Obligations.SchedulerOffersTheLowestRankFirst : Prop :=
  ∀ s : State,
    (∀ o : Owed, s.offerable o = true ↔
      (s.ctl.role = .align ∨ s.ctl.role = .member ∨ s.ctl.role = .leaving)
      ∧ ((o.kind ≠ .accept ∧ o.kind ≠ .refuse) ∨ s.ctl.role = .member))
    ∧ (∀ x, s.offered = some x →
      s.offerable x.2 = true
      ∧ ∃ before after, s.owedMessages = before ++ x :: after
        ∧ (∀ y ∈ before, s.offerable y.2 = true → x.2.kind.rank < y.2.kind.rank)
        ∧ (∀ y ∈ after, s.offerable y.2 = true → x.2.kind.rank ≤ y.2.kind.rank))
    ∧ (s.offered = none → ∀ y ∈ s.owedMessages, s.offerable y.2 = false)
    ∧ (let source (src : Source) (owed : Option Owed) : List (Source × Owed) :=
        match owed with | some o => [(src, o)] | none => []
      s.owedMessages = source .beacon s.bus.beacon ++ source .farewell s.ctl.farewell
        ++ (match s.edit.refusals with | r :: _ => [(.refusal, ⟨.refuse, r.voids⟩)] | [] => [])
        ++ ((List.range 16).flatMap fun k => source (.entry k) ((s.entryAt k).bind (·.owed)))
        ++ (s.edit.outcomes.flatMap fun o => source (.outcome o.id) o.owed)
        ++ source .requester s.catchUp.req.owed ++ source .responder s.catchUp.resp.owed)
    ∧ [MsgKind.take, .drop, .outcome, .beacon, .accept, .refuse, .propose, .query, .farewell, .dumpRequest, .dumpBegin,
        .dumpEnd, .data, .dumpData].map MsgKind.rank = [0, 0, 0, 1, 2, 2, 3, 3, 3, 4, 4, 4, 5, 5]

/-- ATTEMPT_COMPLETION by the window and by what the transmitter read back: a bit after the key that was sent dominant and read
recessive is a fault, at which the transmitter signals an error and the message is void (log 36); without one the station drives
nothing (log 35). Delivered, heard or unheard alike, returns the abandon streak to 0 and is handed to the source; the first three
voids leave the message owed with its void count one higher; the fourth posts TX-ABANDONED and raises the streak, which detaches
the station at 4, and else is handed to the source. An abandoned beacon, FAREWELL, REFUSE, TAKE, QUERY, DROP or OUTCOME is owed no
more, a marked renewal making a new beacon owed; PROPOSE, DATA and ACCEPT are owed again; an abandoned DUMP-REQUEST is a failed
try, and a dump message ends the dump, its context cleared whole (log 33). -/
def Obligations.AttemptsEndDeliveredRetriedOrAbandoned : Prop :=
  (∀ sent read : List Byte, readBackFault sent read = true ↔
    ∃ (i j : Nat) (b c : Byte), 1 ≤ i ∧ sent[i]? = some b ∧ read[i]? = some c ∧ j < 8 ∧ b.getLsbD j = false
      ∧ c.getLsbD j = true)
  ∧ (∀ (readBack : List Byte) (s : State) (a : Transmission), s.bus.attempt = some (.transmitting a) →
    a.withdrawn = false → s.ctl.role.receives = true →
    (readBackFault (a.message.bytes s.cfg.station) readBack = false →
      exec (.attemptCompletion ⟨readBack, .heard⟩) s
        = .next ({ s with bus := { s.bus with attempt := none, abandonStreak := 0, driven := .nothing } }.sourceDelivered a)
      ∧ exec (.attemptCompletion ⟨readBack, .unheard⟩) s = exec (.attemptCompletion ⟨readBack, .heard⟩) s)
    ∧ ∀ (w : Window) (d : WindowDrive),
      (readBackFault (a.message.bytes s.cfg.station) readBack = true ∧ d = .error
        ∨ readBackFault (a.message.bytes s.cfg.station) readBack = false ∧ w = .void ∧ d = .nothing) →
      (a.number < 4 → exec (.attemptCompletion ⟨readBack, w⟩) s
        = .next ({ s with bus := { s.bus with attempt := none, driven := d } }.sourceVoided a.source))
      ∧ (a.number = 4 → s.bus.abandonStreak + 1 < 4 →
        exec (.attemptCompletion ⟨readBack, w⟩) s = .next ({ s with
          bus := { s.bus with attempt := none, abandonStreak := s.bus.abandonStreak + 1, driven := d }
          events := joinQueue s.events
            ⟨.txAbandoned, s.timer.frame, messageRequester a.message, messageId a.message, none, none, false⟩
          }.sourceAbandoned a))
      ∧ (a.number = 4 → s.bus.abandonStreak + 1 = 4 →
        ∃ t, exec (.attemptCompletion ⟨readBack, w⟩) s = .next t ∧ t.ctl.role = .detached
          ∧ t.wall = { s.wall with valid := false } ∧ t.bus.abandonStreak = 0 ∧ t.bus.driven = d ∧ t.cfg = s.cfg
          ∧ t.timer.running = s.timer.running))
  ∧ (∀ u : State,
    let voided (o : Owed) : Owed := { o with voids := o.voids + 1 }
    u.sourceVoided .beacon = { u with bus := { u.bus with
      beacon := if u.bus.renewal then some ⟨.beacon, 0⟩ else u.bus.beacon.map voided, renewal := false } }
    ∧ u.sourceVoided .farewell = { u with ctl := { u.ctl with farewell := u.ctl.farewell.map voided } }
    ∧ (∀ r rest, u.edit.refusals = r :: rest →
      u.sourceVoided .refusal = { u with edit := { u.edit with refusals := { r with voids := r.voids + 1 } :: rest } })
    ∧ (∀ k e, u.entryAt k = some e → u.sourceVoided (.entry k) = { u with edit := { u.edit with
        table := u.edit.table.setIfInBounds k (some { e with owed := e.owed.map voided }) } })
    ∧ (∀ id, u.sourceVoided (.outcome id) = { u with edit := { u.edit with
        outcomes := u.edit.outcomes.map fun o => if o.id = id then { o with owed := o.owed.map voided } else o } })
    ∧ u.sourceVoided .requester = { u with catchUp := { u.catchUp with
        req := { u.catchUp.req with owed := u.catchUp.req.owed.map voided } } }
    ∧ u.sourceVoided .responder = { u with catchUp := { u.catchUp with
        resp := { u.catchUp.resp with owed := u.catchUp.resp.owed.map voided } } })
  ∧ ∀ (u : State) (a : Transmission),
    (a.source = .beacon → u.sourceAbandoned a = { u with bus := { u.bus with
      beacon := if u.bus.renewal then some ⟨.beacon, 0⟩ else none, renewal := false } })
    ∧ (a.source = .farewell → (u.sourceAbandoned a).ctl.role = .offline ∧ (u.sourceAbandoned a).ctl.farewell = none
      ∧ (u.sourceAbandoned a).wall = { u.wall with valid := false })
    ∧ (a.source = .refusal →
      u.sourceAbandoned a = { u with edit := { u.edit with refusals := u.edit.refusals.tail } })
    ∧ (∀ k e, a.source = .entry k → u.entryAt k = some e →
      u.sourceAbandoned a = { u with edit := { u.edit with table := u.edit.table.setIfInBounds k (some { e with
        owed := if a.message.kind = .propose ∨ a.message.kind = .data ∨ a.message.kind = .accept then
          some ⟨a.message.kind, 0⟩ else none }) } })
    ∧ (∀ id, a.source = .outcome id → u.sourceAbandoned a = { u with edit := { u.edit with
        outcomes := u.edit.outcomes.map fun o => if o.id = id then { o with owed := none } else o } })
    ∧ (a.source = .requester → u.bus.attempt = none →
      (u.catchUp.req.tries + 1 < 4 → u.sourceAbandoned a = { u with catchUp := { u.catchUp with
        buffer := emptyBuffer
        req := { u.catchUp.req with
          state := .asking, tries := u.catchUp.req.tries + 1, askWait := none, responder := none, header := none,
          received := [], receiveWait := none, owed := some ⟨.dumpRequest, 0⟩ } } })
      ∧ (4 ≤ u.catchUp.req.tries + 1 → u.sourceAbandoned a = { u with
          catchUp := { u.catchUp with
            buffer := emptyBuffer
            req := { u.catchUp.req with
              state := .retryWait, tries := u.catchUp.req.tries + 1, askWait := none, responder := none, header := none,
              received := [], receiveWait := none, retryWait := some 64, owed := none } }
          events := joinQueue u.events ⟨.dumpFailed, u.timer.frame, none, none, none, none, false⟩ }))
    ∧ (a.source = .responder → u.sourceAbandoned a = { u with catchUp := { u.catchUp with resp := Responder.reset } })

/-- What a delivered completion, heard or unheard, does at its source: the beacon start record; the FAREWELL's way to OFFLINE; the
next refusal; the ask wait; the dump's next message; for a PROPOSE the voter sets, with DATA owed, the vote awaited, or the take
decided at once by a lone member; for DATA the cursor, with the next fragment owed or the vote awaited; for TAKE, ACCEPT, QUERY,
DROP and OUTCOME nothing owed. A DUMP-BEGIN whose station left MEMBER during the attempt is followed by a torn DUMP-END
(log 15). -/
def Obligations.DeliveredMessagesLeaveTheirSources : Prop :=
  ∀ (readBack : List Byte) (w : Window) (s : State) (a : Transmission), s.bus.attempt = some (.transmitting a) →
    a.withdrawn = false → readBackFault (a.message.bytes s.cfg.station) readBack = false → w ≠ .void →
    ∃ t, exec (.attemptCompletion ⟨readBack, w⟩) s = .next t
      ∧ (a.source = .beacon → t.bus.beaconStart = a.start ∧ t.bus.startValid = a.usable ∧ t.bus.renewal = false
          ∧ t.bus.beacon = (if s.bus.renewal then some ⟨.beacon, 0⟩ else none))
      ∧ (a.source = .farewell → t.ctl.role = .offline ∧ t.wall = { s.wall with valid := false })
      ∧ (a.source = .refusal → t.edit.refusals = s.edit.refusals.tail)
      ∧ (∀ id, a.source = .outcome id →
          t.edit.outcomes = s.edit.outcomes.map fun o => if o.id = id then { o with owed := none } else o)
      ∧ (a.source = .requester → t.catchUp.req = { s.catchUp.req with owed := none, askWait := some 8 })
      ∧ (a.source = .responder → a.message.kind = .dumpBegin → s.catchUp.resp.endAfterBegin = false →
          t.catchUp.resp = { s.catchUp.resp with state := .sending, cursor := 0, owed := some ⟨.dumpData, 0⟩ })
      ∧ (a.source = .responder → a.message.kind = .dumpBegin → s.catchUp.resp.endAfterBegin = true →
          t.catchUp.resp = { s.catchUp.resp with
            state := .sending, cursor := 52, torn := true, endAfterBegin := false, owed := some ⟨.dumpEnd, 0⟩ })
      ∧ (a.source = .responder → a.message.kind = .dumpData → t.catchUp.resp = { s.catchUp.resp with
          cursor := s.catchUp.resp.cursor + 1
          owed := some ⟨if s.catchUp.resp.cursor + 1 < 52 then .dumpData else .dumpEnd, 0⟩ })
      ∧ (a.source = .responder → a.message.kind = .dumpEnd → t.catchUp.resp = Responder.reset)
      ∧ (∀ k e, a.source = .entry k → s.entryAt k = some e →
        (a.message.kind = .propose → e.target.isPalette = true →
          t.entryAt k = some { e with
            proposed := some true, voters := some s.liveMembers, pendingVoters := some s.liveMembers, cursor := some 0, owed := some ⟨.data, 0⟩ })
        ∧ (a.message.kind = .propose → e.target.isPalette = false →
          (s.liveMembers ≠ [] ∨ frameDiff e.takeFrame s.timer.frame < 3 →
            t.entryAt k = some { e with
              proposed := some true, voters := some s.liveMembers, pendingVoters := some s.liveMembers, state := .awaiting, owed := none })
          ∧ (s.liveMembers = [] → 3 ≤ frameDiff e.takeFrame s.timer.frame → e.holding = .own →
            t.entryAt k = some { e with
              proposed := some true, voters := some [], pendingVoters := some [], state := .taken, late := false, owed := some ⟨.take, 0⟩ }
            ∧ t.edit.outcomes = joinOutcomes s.edit.outcomes ⟨e.id, true, none, none⟩))
        ∧ (∀ j, a.message.kind = .data → e.cursor = some j →
          (j + 1 < e.target.fragments → t.entryAt k = some { e with cursor := some (j + 1), owed := some ⟨.data, 0⟩ })
          ∧ (e.target.fragments ≤ j + 1 →
            (e.pendingVoters ≠ some [] ∨ frameDiff e.takeFrame s.timer.frame < 3 →
              t.entryAt k = some { e with cursor := some (j + 1), state := .awaiting, owed := none })
            ∧ (e.pendingVoters = some [] → 3 ≤ frameDiff e.takeFrame s.timer.frame → e.holding = .own →
              t.entryAt k = some { e with
                cursor := some (j + 1), state := .taken, late := false, owed := some ⟨.take, 0⟩ }
              ∧ t.edit.outcomes = joinOutcomes s.edit.outcomes ⟨e.id, true, none, none⟩)))
        ∧ (a.message.kind = .take ∨ a.message.kind = .accept ∨ a.message.kind = .query →
          t.entryAt k = some { e with owed := none }))

/-- RECEPTION_START, VOID_RECEPTION, MESSAGE_DISCARDED, CORRUPT_RECEPTION and IDLE_GAP at a station that receives: the receive
time is the own time; a message found good is acknowledged, and one found corrupt is answered with an error; a void is delivered
nowhere and leaves the corrupt streak, a discarded message returns it to 0, and the sixteenth corrupt one in a row detaches the
station. The idle gap is log 28, the form of what is driven log 35. -/
def Obligations.ReceptionsKeepTheirTimeAndStreak : Prop :=
  ∀ s : State, s.ctl.role.receives = true →
    (s.bus.gapSeen = true → s.bus.attempt = none →
      exec .receptionStart s = .next { s with bus := { s.bus with
        attempt := some (.receiving (ownTime s.cfg s.timer) true), driven := .nothing } })
    ∧ exec .idleGap s = .next { s with bus := { s.bus with gapSeen := true } }
    ∧ (s.hears →
      exec .voidReception s = .next { s with bus := { s.bus with attempt := none, driven := .acknowledgment } }
      ∧ (∀ bytes, exec (.messageDiscarded bytes) s
          = .next { s with bus := { s.bus with attempt := none, corruptStreak := 0, driven := .acknowledgment } })
      ∧ (s.bus.corruptStreak + 1 < 16 →
          exec .corruptReception s
            = .next { s with bus := { s.bus with
                attempt := none, corruptStreak := s.bus.corruptStreak + 1, driven := .error } })
      ∧ (s.bus.corruptStreak + 1 = 16 →
          ∃ t, exec .corruptReception s = .next t ∧ t.ctl.role = .detached ∧ t.wall = { s.wall with valid := false }
            ∧ t.bus.corruptStreak = 0 ∧ t.bus.abandonStreak = 0 ∧ t.bus.driven = .error))

/-- A station in OFFLINE or DETACHED receives nothing, and one in OFFLINE, LISTEN or DETACHED begins no attempt. -/
def Obligations.RolesOutsideTheWallHearAndSendNothing : Prop :=
  ∀ s : State,
    (s.ctl.role.receives = false → ∀ c : Instr, c.isReception = true → exec c s = .next s)
    ∧ (s.ctl.role.transmits = false → ∀ rivals, exec (.attemptStart rivals) s = .next s)

/-! ### Beacons and farewells -/

/-- A beacon that bears the own station number detaches the station: DETACHED is posted, then ROLE-CHANGED; the beacon changes
no entry and the whole Peer Table is cleared. -/
def Obligations.OwnNumberInABeaconDetaches : Prop :=
  ∀ (b : Beacon) (s : State), s.hears → s.events.length + 2 ≤ 32 →
    ∃ t more, exec (.beaconArrival s.cfg.station b) s = .next t ∧ t.ctl.role = .detached
      ∧ t.wall = { s.wall with valid := false } ∧ t.peers = mapTable Peer.clear s.peers ∧ (∀ i, t.entryAt i = none)
      ∧ t.events.take (s.events.length + 1) = s.events ++
          [⟨.detached, s.timer.frame, none, none, some .duplicate, none, false⟩]
      ∧ t.events.drop (s.events.length + 1) = more
      ∧ (more.head?.map fun e => (e.kind, e.role)) = some (.roleChanged, some .detached)

/-- A compatible beacon: liveness, then the offset against the capture held before it, then the capture, the reported fields
and the verdict; PEER-LIVE is posted when a HEARD entry becomes LIVE. No other entry and no other block changes. -/
def Obligations.CompatibleBeaconUpdatesItsEntry : Prop :=
  ∀ (sender : Station) (b : Beacon) (s : State) (p : Peer) (role : Role) (time : Time) (usable : Bool),
    s.ctl.role.receives = true → s.bus.attempt = some (.receiving time usable) → sender ≠ s.cfg.station →
    s.peers[sender.toNat]? = some p → Role.ofBeacon b.role = some role → b.lineLength = s.cfg.lineLength →
    b.lines = s.cfg.lines →
    ∃ t q, exec (.beaconArrival sender b) s = .next t ∧ t.peers = s.peers.setIfInBounds sender.toNat q
      ∧ q.state = (if p.state = .heard ∨ p.state = .live then .live else .heard) ∧ q.misses = 0 ∧ q.seen = true
      ∧ q.capture = ⟨b.frame, time, usable⟩ ∧ q.reported = some ⟨role, b.locked, b.version, b.frame⟩
      ∧ q.offset = (if p.capture.valid = true ∧ b.stampValid = true ∧ b.stampFrame = p.capture.senderFrame then
          some ⟨offsetValue s.cfg p.capture.own ⟨b.stampFrame, b.stampPhase.toNat⟩, p.capture.own,
            ⟨b.stampFrame, b.stampPhase.toNat⟩, true⟩ else p.offset)
      ∧ q.verdict = (if s.ctl.role = .member ∧ q.state = .live ∧ role = .member ∧ b.frame = s.timer.frame then
          (if b.version = s.wall.version then .agree else .differ) else p.verdict)
      ∧ t.events = (if p.state = .heard then
          joinQueue s.events ⟨.peerLive, s.timer.frame, some sender, none, none, none, false⟩ else s.events)
      ∧ t.bus = { s.bus with attempt := none, corruptStreak := 0, driven := .acknowledgment } ∧ t.wall = s.wall ∧ t.edit = s.edit
      ∧ t.timer = s.timer ∧ t.ctl = s.ctl ∧ t.catchUp = s.catchUp ∧ t.pixel = s.pixel ∧ t.cfg = s.cfg ∧ t.port = s.port

/-- A mismatching beacon makes its entry INCOMPATIBLE; from any other state PEER-INCOMPATIBLE is posted and the peer leaves the
voter sets of every own entry. -/
def Obligations.MismatchingBeaconMakesAnEntryIncompatible : Prop :=
  ∀ (sender : Station) (b : Beacon) (s : State) (p : Peer) (role : Role),
    s.hears → sender ≠ s.cfg.station → s.peers[sender.toNat]? = some p → Role.ofBeacon b.role = some role →
    b.lineLength ≠ s.cfg.lineLength ∨ b.lines ≠ s.cfg.lines →
    ∃ t q, exec (.beaconArrival sender b) s = .next t ∧ t.peers = s.peers.setIfInBounds sender.toNat q
      ∧ q.state = .incompatible ∧ q.misses = 0 ∧ q.seen = true ∧ q.capture.valid = false ∧ q.offset = none
      ∧ q.verdict = .none ∧ q.reported = some ⟨role, b.locked, b.version, b.frame⟩
      ∧ (p.state = .incompatible → t.events = s.events ∧ t.edit = s.edit)
      ∧ (p.state ≠ .incompatible →
        t.events = joinQueue s.events ⟨.peerIncompatible, s.timer.frame, some sender, none, none, none, false⟩
        ∧ ∀ k e, t.entryAt k = some e → e.holding = .own →
            sender ∉ e.voters.getD [] ∧ sender ∉ e.pendingVoters.getD [])
      ∧ t.wall = s.wall ∧ t.timer = s.timer ∧ t.ctl = s.ctl ∧ t.cfg = s.cfg

/-- An offset is the held own time minus the stamp time as a difference of two times, or a far mark from 2^20 frames on; it is
formed when the capture is valid, the stamp valid and the stamp's frame the captured one, and else the record stays. -/
def Obligations.OffsetIsTheDifferenceOfTheTimes : Prop :=
  (∀ (c : ConfigRecord) (own peer : Time),
    offsetValue c own peer =
      if (own.frame - peer.frame).toInt ≤ -1048576 then .farAhead
      else if 1048576 ≤ (own.frame - peer.frame).toInt then .farBehind
      else .value ((own.frame - peer.frame).toInt * ((c.lineLength.toNat * c.lines.toNat : Nat) : Int)
        + ((own.phase : Int) - (peer.phase : Int))))
  ∧ ∀ (c : ConfigRecord) (b : Beacon) (p : Peer),
      p.pair c b = { p with
        offset := if p.capture.valid = true ∧ b.stampValid = true ∧ b.stampFrame = p.capture.senderFrame then
          some ⟨offsetValue c p.capture.own ⟨b.stampFrame, b.stampPhase.toNat⟩, p.capture.own,
            ⟨b.stampFrame, b.stampPhase.toNat⟩, true⟩
        else p.offset }

/-- A FAREWELL clears its sender's entry, posts PEER-LEFT and hands on the loss, unless the entry is ABSENT, the number carried
is not its sender's, or the sender is the own number. -/
def Obligations.FarewellClearsItsEntry : Prop :=
  ∀ (sender station : Station) (s : State), s.hears →
    (station ≠ sender ∨ sender = s.cfg.station →
      exec (.farewellArrival sender station) s = .next { s with bus := { s.bus with attempt := none, corruptStreak := 0, driven := .acknowledgment } })
    ∧ (∀ p, station = sender → sender ≠ s.cfg.station → s.peers[sender.toNat]? = some p →
      (p.state = .absent →
        exec (.farewellArrival sender station) s = .next { s with bus := { s.bus with attempt := none, corruptStreak := 0, driven := .acknowledgment } })
      ∧ (p.state ≠ .absent →
        ∃ t, exec (.farewellArrival sender station) s = .next t
          ∧ t.peers = s.peers.setIfInBounds sender.toNat (Peer.cleared p.capture)
          ∧ t.events = joinQueue s.events ⟨.peerLeft, s.timer.frame, some sender, none, none, none, false⟩
          ∧ (∀ k e, t.entryAt k = some e → e.holding = .own →
              sender ∉ e.voters.getD [] ∧ sender ∉ e.pendingVoters.getD [])
          ∧ t.wall = s.wall ∧ t.timer = s.timer ∧ t.ctl = s.ctl ∧ t.cfg = s.cfg))

/-! ### Edits on the bus -/

/-- The messages of an edit touch the Edit Unit, the event queue and the requester's missed flag alone, beside the end of the
reception; the sequence counter never. -/
def Obligations.EditMessagesTouchOnlyTheEditUnit : Prop :=
  ∀ (c : Instr) (s t : State), c.isEditArrival = true → s.hears → exec c s = .next t →
    s.sameButEdits t ∧ t.bus = { s.bus with attempt := none, corruptStreak := 0, driven := .acknowledgment } ∧ t.edit.sequence = s.edit.sequence

/-- PROPOSE_ARRIVAL: a proposal that passes the tests creates the entry of R35 at the lowest empty index, as a VOTER at a member
and an OBSERVER in LISTEN and ALIGN. The state the tests see is that after the supersede, which removes an entry of the same id
with EDIT-DROPPED SUPERSEDED, and the withdrawals, which remove every own entry not yet proposed that the proposal conflicts with,
with EDIT-DROPPED CONFLICT in index order. -/
def Obligations.AdmittedProposalCreatesAnEntry : Prop :=
  (∀ (sender : Station) (id : EditId) (takeFrame : FrameNo) (target : Target) (s : State),
    s.hears → s.ctl.role ≠ .leaving → id.proposer = sender → sender ≠ s.cfg.station → target.inRange = true →
    let u := ({ s with bus := { s.bus with attempt := none, corruptStreak := 0, driven := .acknowledgment } }.supersede id).withdrawUnsent target
    (∀ k e, u.entryAt k = some e → e.target.conflicts target = false) →
    3 ≤ frameDiff takeFrame s.timer.frame → frameDiff takeFrame s.timer.frame ≤ 256 →
    u.entries.length < 16 → target.reservation ≤ u.poolFree →
    ∃ k, k < 16 ∧ u.entryAt k = none ∧ (∀ j, j < k → (u.entryAt j).isSome = true)
      ∧ exec (.proposeArrival sender id takeFrame target) s = .next { u with edit := { u.edit with
          table := u.edit.table.setIfInBounds k (some
            { id := id, takeFrame := takeFrame, target := target, staged := List.replicate target.reservation none,
              received := if target.isPalette then some [] else none,
              holding := if s.ctl.role = .member then .voter else .observer,
              state := if target.isPalette then .collecting else if s.ctl.role = .member then .accepted else .complete,
              proposed := none, voters := none, pendingVoters := none, cursor := none,
              queryTries := if s.ctl.role = .member then some 0 else none, queryWait := none, late := false,
              deferred := false,
              owed := if target.isPalette = false ∧ s.ctl.role = .member then some ⟨.accept, 0⟩ else none }) } })
  ∧ (∀ (u : State) (id : EditId), u.bus.attempt = none →
    (u.findEntry id = none → u.supersede id = u)
    ∧ ∀ k e, u.findEntry id = some (k, e) → u.supersede id = { u with
        edit := { u.edit with table := u.edit.table.setIfInBounds k none }
        events := joinQueue u.events ⟨.editDropped, u.timer.frame, none, some id, some .superseded, none, false⟩ })
  ∧ ∀ (u : State) (target : Target), u.bus.attempt = none →
    ∃ table, u.withdrawUnsent target = { u with
        edit := { u.edit with table := table }
        events := (u.entries.filter fun x =>
            decide (x.2.holding = .own) && decide (x.2.proposed = some false) && x.2.target.conflicts target).foldl
          (fun q x => joinQueue q ⟨.editDropped, u.timer.frame, none, some x.2.id, some .conflict, none, false⟩) u.events }
      ∧ ∀ k, (u.withdrawUnsent target).entryAt k = (u.entryAt k).bind fun e =>
          if e.holding = .own ∧ e.proposed = some false ∧ e.target.conflicts target = true then none else some e

/-- PROPOSE_ARRIVAL: an arrival in LEAVING, from another sender than its proposer, under the own number or out of range is
ignored; a proposal that fails a test is refused by a member with CONFLICT, LEAD or NO-ROOM, in that order, and ignored by a
non-member, with the missed flag set while it is catching up. A refusal joins the tail of the refusal list, unless the list holds
4 entries or one with the same id. -/
def Obligations.OtherProposalsAreRefusedOrIgnored : Prop :=
  (∀ (sender : Station) (id : EditId) (takeFrame : FrameNo) (target : Target) (s : State), s.hears →
    let r := { s with bus := { s.bus with attempt := none, corruptStreak := 0, driven := .acknowledgment } }
    let u := (r.supersede id).withdrawUnsent target
    let ended (reason : Reason) : State :=
      if s.ctl.role = .member then u.refuse id reason
      else if s.catchUp.req.state ≠ .idle then
        { u with catchUp := { u.catchUp with req := { u.catchUp.req with missed := true } } }
      else u
    (s.ctl.role = .leaving ∨ id.proposer ≠ sender ∨ id.proposer = s.cfg.station ∨ target.inRange = false →
      exec (.proposeArrival sender id takeFrame target) s = .next r)
    ∧ (s.ctl.role ≠ .leaving → id.proposer = sender → sender ≠ s.cfg.station → target.inRange = true →
      ((∃ k e, u.entryAt k = some e ∧ e.target.conflicts target = true) →
        exec (.proposeArrival sender id takeFrame target) s = .next (ended .conflict))
      ∧ ((∀ k e, u.entryAt k = some e → e.target.conflicts target = false) →
        (frameDiff takeFrame s.timer.frame < 3 ∨ 256 < frameDiff takeFrame s.timer.frame →
          exec (.proposeArrival sender id takeFrame target) s = .next (ended .lead))
        ∧ (3 ≤ frameDiff takeFrame s.timer.frame → frameDiff takeFrame s.timer.frame ≤ 256 →
          16 ≤ u.entries.length ∨ u.poolFree < target.reservation →
          exec (.proposeArrival sender id takeFrame target) s = .next (ended .noRoom)))))
  ∧ ∀ (u : State) (id : EditId) (reason : Reason),
    (u.edit.refusals.length < 4 → (∀ r ∈ u.edit.refusals, r.id ≠ id) →
      u.refuse id reason = { u with edit := { u.edit with refusals := u.edit.refusals ++ [⟨id, reason, 0⟩] } })
    ∧ (4 ≤ u.edit.refusals.length ∨ (∃ r ∈ u.edit.refusals, r.id = id) → u.refuse id reason = u)

/-- DATA_ARRIVAL: a new fragment of the right size, from the proposer of a COLLECTING entry, is stored; the one that completes
the set brings the check. Any other DATA changes nothing. -/
def Obligations.FragmentsAreStoredThenChecked : Prop :=
  ∀ (sender : Station) (id : EditId) (fragment : Byte) (records : List Colour) (s : State), s.hears →
    (∀ k e start count check, sender ≠ s.cfg.station → sender = id.proposer → s.findEntry id = some (k, e) →
      e.state = .collecting → e.target = .palette start count check → fragment.toNat < fragmentCount count.toNat →
      fragment.toNat ∉ e.received.getD [] → records.length = min 5 (count.toNat - 5 * fragment.toNat) →
      let got := insertNat fragment.toNat (e.received.getD [])
      let staged := writeFrom e.staged (5 * fragment.toNat) (records.map some)
      ∃ t, exec (.dataArrival sender id fragment records) s = .next t
        ∧ ((∃ j, j < fragmentCount count.toNat ∧ j ∉ got) →
            t.entryAt k = some { e with staged := staged, received := some got } ∧ t.events = s.events)
        ∧ ((∀ j, j < fragmentCount count.toNat → j ∈ got) → checkValue start.toNat (staged.map recordOr) = check →
            (e.holding = .voter → t.entryAt k = some
              { e with staged := staged, received := some got, state := .accepted, owed := some ⟨.accept, 0⟩ })
            ∧ (e.holding = .observer → t.entryAt k = some
              { e with staged := staged, received := some got, state := .complete, owed := none }))
        ∧ ((∀ j, j < fragmentCount count.toNat → j ∈ got) → checkValue start.toNat (staged.map recordOr) ≠ check →
            t.entryAt k = none
            ∧ (e.holding = .voter → t.edit.refusals = (s.refuse id .check).edit.refusals
                ∧ t.events = joinQueue s.events ⟨.editDropped, s.timer.frame, none, some id, some .check, none, false⟩)
            ∧ (e.holding = .observer → t.events = s.events ∧ t.edit.refusals = s.edit.refusals)))
    ∧ ((sender = s.cfg.station ∨ sender ≠ id.proposer
        ∨ ∀ k e, s.findEntry id = some (k, e) →
            e.state ≠ .collecting ∨ fragmentCount e.target.reservation ≤ fragment.toNat
            ∨ fragment.toNat ∈ e.received.getD [] ∨ records.length ≠ min 5 (e.target.reservation - 5 * fragment.toNat)) →
      exec (.dataArrival sender id fragment records) s = .next { s with bus := { s.bus with attempt := none, corruptStreak := 0, driven := .acknowledgment } })

/-- ACCEPT_ARRIVAL and REFUSE_ARRIVAL at an undecided own entry. An ACCEPT takes its sender out of the pending-voter set; an
AWAITING entry whose set is then empty, three frames or more before its take frame, becomes TAKEN, owes TAKE and records its
outcome. A REFUSE from a voter, whatever its reason, drops the entry: the outcome, owing DROP when the entry was proposed, the
removal, and EDIT-DROPPED naming the refusing station. Other votes change nothing. An outcome joins the tail of the outcome list,
in which no other entry keeps its id, and at 9 entries the oldest is removed. -/
def Obligations.VotesDecideAnOwnEntry : Prop :=
  (∀ (sender : Station) (id : EditId) (reason : Byte) (s : State), s.hears →
    let r := { s with bus := { s.bus with attempt := none, corruptStreak := 0, driven := .acknowledgment } }
    (∀ k e, sender ≠ s.cfg.station → s.findEntry id = some (k, e) → e.holding = .own →
      e.state = .sending ∨ e.state = .awaiting →
      (sender ∈ e.pendingVoters.getD [] →
        let rest := (e.pendingVoters.getD []).filter (· != sender)
        ∃ t, exec (.acceptArrival sender id) s = .next t ∧ t.events = s.events
          ∧ (e.state = .awaiting ∧ rest = [] ∧ 3 ≤ frameDiff e.takeFrame s.timer.frame →
              t.entryAt k
                = some { e with pendingVoters := some [], state := .taken, late := false, owed := some ⟨.take, 0⟩ }
              ∧ t.edit.outcomes = joinOutcomes s.edit.outcomes ⟨id, true, none, none⟩)
          ∧ (¬ (e.state = .awaiting ∧ rest = [] ∧ 3 ≤ frameDiff e.takeFrame s.timer.frame) →
              t.entryAt k = some { e with pendingVoters := some rest } ∧ t.edit.outcomes = s.edit.outcomes))
      ∧ (sender ∈ e.voters.getD [] →
        ∃ t, exec (.refuseArrival sender id reason) s = .next t ∧ t.entryAt k = none
          ∧ t.edit.outcomes = joinOutcomes s.edit.outcomes
              ⟨id, false, some .refused, if e.proposed = some true then some ⟨.drop, 0⟩ else none⟩
          ∧ t.events
              = joinQueue s.events ⟨.editDropped, s.timer.frame, some sender, some id, some .refused, none, false⟩))
    ∧ ((sender = s.cfg.station ∨ ∀ k e, s.findEntry id = some (k, e) →
          e.holding ≠ .own ∨ (e.state ≠ .sending ∧ e.state ≠ .awaiting) ∨ sender ∉ e.pendingVoters.getD []) →
      exec (.acceptArrival sender id) s = .next r)
    ∧ ((sender = s.cfg.station ∨ ∀ k e, s.findEntry id = some (k, e) →
          e.holding ≠ .own ∨ (e.state ≠ .sending ∧ e.state ≠ .awaiting) ∨ sender ∉ e.voters.getD []) →
      exec (.refuseArrival sender id reason) s = .next r))
  ∧ ∀ (q : List OutcomeEntry) (o : OutcomeEntry), q.length ≤ 8 →
    let kept := q.filter fun x => decide (x.id ≠ o.id)
    (kept.length < 8 → joinOutcomes q o = kept ++ [o])
    ∧ ∀ oldest rest, kept = oldest :: rest → kept.length = 8 → joinOutcomes q o = rest ++ [o]

/-- TAKE_ARRIVAL and DROP_ARRIVAL from the proposer: a TAKE makes a waiting entry TAKEN, late when its take frame is not later
than the own frame, with TAKE-LATE posted, and removes a collecting observer; a DROP removes an undecided entry. Both record
their outcome. In the other states, and from another sender, they change nothing. -/
def Obligations.TakeAndDropActByTheStateOfTheEntry : Prop :=
  ∀ (sender : Station) (id : EditId) (reason : Byte) (s : State) (k : Nat) (e : EditEntry), s.hears →
    s.findEntry id = some (k, e) →
    let r := { s with bus := { s.bus with attempt := none, corruptStreak := 0, driven := .acknowledgment } }
    let late := decide (¬ 0 < frameDiff e.takeFrame s.timer.frame)
    (sender = s.cfg.station ∨ sender ≠ id.proposer →
      exec (.takeArrival sender id) s = .next r ∧ exec (.dropArrival sender id reason) s = .next r)
    ∧ (sender ≠ s.cfg.station → sender = id.proposer →
      (e.state = .accepted ∨ e.state = .complete ∨ e.state = .inDoubt →
        ∃ t, exec (.takeArrival sender id) s = .next t
          ∧ t.entryAt k = some { e with state := .taken, late := late, queryWait := none, owed := none }
          ∧ t.edit.outcomes = joinOutcomes s.edit.outcomes ⟨id, true, none, none⟩
          ∧ t.events = if late then joinQueue s.events ⟨.takeLate, s.timer.frame, none, some id, none, none, false⟩
            else s.events)
      ∧ (e.state = .collecting → e.holding = .observer →
        ∃ t, exec (.takeArrival sender id) s = .next t ∧ t.entryAt k = none ∧ t.edit.outcomes = s.edit.outcomes
          ∧ t.events = s.events
          ∧ t.catchUp.req.missed = (s.catchUp.req.missed || decide (s.catchUp.req.state ≠ .idle)))
      ∧ (e.state = .taken ∨ (e.state = .collecting ∧ e.holding = .voter) → exec (.takeArrival sender id) s = .next r)
      ∧ (e.state = .collecting ∨ e.state = .accepted ∨ e.state = .complete ∨ e.state = .inDoubt →
        ∃ t, exec (.dropArrival sender id reason) s = .next t ∧ t.entryAt k = none
          ∧ t.edit.outcomes = joinOutcomes s.edit.outcomes ⟨id, false, none, none⟩
          ∧ t.events = joinQueue s.events
              ⟨.editDropped, s.timer.frame, none, some id, some .droppedByProposer, none, false⟩)
      ∧ (e.state = .taken → exec (.dropArrival sender id reason) s = .next r))

/-- QUERY_ARRIVAL: at a member the outcome entry of the id that owes nothing comes to owe OUTCOME; in any role an owed QUERY for
the id is withdrawn, one that waits for its retry too (log 17). Under the own number it is ignored (R56). -/
def Obligations.QueryIsAnsweredFromTheOutcomeList : Prop :=
  ∀ (sender : Station) (id : EditId) (s : State), s.hears →
    let r := { s with bus := { s.bus with attempt := none, corruptStreak := 0, driven := .acknowledgment } }
    (sender = s.cfg.station → exec (.queryArrival sender id) s = .next r)
    ∧ (sender ≠ s.cfg.station →
      ∃ t, exec (.queryArrival sender id) s = .next t ∧ t.events = s.events
        ∧ t.edit.outcomes = (if s.ctl.role = .member then
            s.edit.outcomes.map fun o => if o.id = id ∧ o.owed = none then { o with owed := some ⟨.outcome, 0⟩ } else o
          else s.edit.outcomes)
        ∧ (∀ k e, s.findEntry id = some (k, e) →
            t.entryAt k = some (if e.owed.map (·.kind) = some .query then { e with owed := none } else e))
        ∧ (s.findEntry id = none → t.edit.table = s.edit.table))

/-- OUTCOME_ARRIVAL: an ACCEPTED, COMPLETE or IN-DOUBT entry becomes TAKEN or is removed, as the result says; nothing is recorded,
and an owed OUTCOME of the station's own for the id is withdrawn (R68), one that waits for its retry too (log 17). Under the own
number it is ignored (R56). -/
def Obligations.OutcomeSettlesAWaitingEntry : Prop :=
  ∀ (sender : Station) (id : EditId) (s : State), s.hears →
    let r := { s with bus := { s.bus with attempt := none, corruptStreak := 0, driven := .acknowledgment } }
    (∀ taken, sender = s.cfg.station → exec (.outcomeArrival sender id taken) s = .next r)
    ∧ (∀ taken, sender ≠ s.cfg.station →
      ∃ t, exec (.outcomeArrival sender id taken) s = .next t
        ∧ t.edit.outcomes = s.edit.outcomes.map (fun o =>
            if o.id = id ∧ o.owed.map (·.kind) = some .outcome then { o with owed := none } else o)
        ∧ (∀ k e, s.findEntry id = some (k, e) →
          let late := decide (¬ 0 < frameDiff e.takeFrame s.timer.frame)
          (e.state = .accepted ∨ e.state = .complete ∨ e.state = .inDoubt →
            (taken = true →
              t.entryAt k = some { e with state := .taken, late := late, queryWait := none, owed := none }
              ∧ t.events = if late then joinQueue s.events ⟨.takeLate, s.timer.frame, none, some id, none, none, false⟩
                else s.events)
            ∧ (taken = false → t.entryAt k = none
              ∧ t.events = joinQueue s.events
                  ⟨.editDropped, s.timer.frame, none, some id, some .droppedByProposer, none, false⟩))
          ∧ (e.state = .collecting ∨ e.state = .taken → t.edit.table = s.edit.table ∧ t.events = s.events))
        ∧ (s.findEntry id = none → t.edit.table = s.edit.table ∧ t.events = s.events))

/-! ### The dump -/

/-- DUMP_REQUEST_ARRIVAL: an eligible station comes to offer a dump to the requester; any other request changes nothing. -/
def Obligations.EligibleMemberOffersADump : Prop :=
  ∀ (sender requester : Station) (s : State), s.hears →
    let r := { s with bus := { s.bus with attempt := none, corruptStreak := 0, driven := .acknowledgment } }
    (requester = sender ∧ requester ≠ s.cfg.station ∧ s.ctl.role = .member ∧ s.wall.valid = true ∧ s.ctl.stale = false
        ∧ s.catchUp.req.state = .idle ∧ s.catchUp.resp.state = .idle →
      exec (.dumpRequestArrival sender requester) s = .next { r with catchUp := { r.catchUp with
        resp := ⟨.offering, some requester, 0, false, some ⟨.dumpBegin, 0⟩, false, false⟩ } })
    ∧ (¬ (requester = sender ∧ requester ≠ s.cfg.station ∧ s.ctl.role = .member ∧ s.wall.valid = true ∧ s.ctl.stale = false
        ∧ s.catchUp.req.state = .idle ∧ s.catchUp.resp.state = .idle) →
      exec (.dumpRequestArrival sender requester) s = .next r)

/-- DUMP_BEGIN_ARRIVAL: one that names this station starts the reception in ASKING and restarts it in RECEIVING when it comes
from r; one from another station for the requester of this station's offer withdraws the offer; one under the own number
changes neither context (log 32). A DUMP-REQUEST or an offer that waits for its retry is withdrawn too (log 17), and the
responder context is cleared whole (log 33). -/
def Obligations.DumpBeginStartsAReceptionOrEndsAnOffer : Prop :=
  ∀ (sender requester : Station) (h : Header) (s : State), s.hears →
    ∃ t, exec (.dumpBeginArrival sender requester h) s = .next t
      ∧ (requester = s.cfg.station ∧ sender ≠ s.cfg.station ∧ (s.catchUp.req.state = .asking
            ∨ (s.catchUp.req.state = .receiving ∧ s.catchUp.req.responder = some sender)) →
          t.catchUp.req = { s.catchUp.req with
            state := .receiving, askWait := none, responder := some sender, header := some h, received := [], receiveWait := some 8, owed := none }
          ∧ t.catchUp.buffer = emptyBuffer)
      ∧ (¬ (requester = s.cfg.station ∧ sender ≠ s.cfg.station ∧ (s.catchUp.req.state = .asking
            ∨ (s.catchUp.req.state = .receiving ∧ s.catchUp.req.responder = some sender))) →
          t.catchUp.req = s.catchUp.req ∧ t.catchUp.buffer = s.catchUp.buffer)
      ∧ (s.catchUp.resp.state = .offering ∧ s.catchUp.resp.requester = some requester ∧ sender ≠ s.cfg.station →
          t.catchUp.resp = Responder.reset)
      ∧ (¬ (s.catchUp.resp.state = .offering ∧ s.catchUp.resp.requester = some requester ∧ sender ≠ s.cfg.station) →
          t.catchUp.resp = s.catchUp.resp)
      ∧ t.wall = s.wall ∧ t.edit = s.edit ∧ t.ctl = s.ctl ∧ t.timer = s.timer ∧ t.events = s.events

/-- DUMP_DATA_ARRIVAL and DUMP_END_ARRIVAL reach the requester only when they name this station, come from r and find it
RECEIVING. A DUMP-DATA restarts the receive wait and stores a new fragment of the right size; a DUMP-END ends the reception in
APPLY-PENDING when the dump is whole and its check good, and else as a failed try. -/
def Obligations.DumpDataIsStoredAndDumpEndJudges : Prop :=
  ∀ (sender requester : Station) (s : State), s.hears →
    let r := { s with bus := { s.bus with attempt := none, corruptStreak := 0, driven := .acknowledgment } }
    (¬ (requester = s.cfg.station ∧ s.catchUp.req.state = .receiving ∧ s.catchUp.req.responder = some sender) →
      (∀ fragment records, exec (.dumpDataArrival sender requester fragment records) s = .next r)
      ∧ ∀ torn check, exec (.dumpEndArrival sender requester torn check) s = .next r)
    ∧ (requester = s.cfg.station ∧ s.catchUp.req.state = .receiving ∧ s.catchUp.req.responder = some sender →
      (∀ fragment records,
        (fragment.toNat < 52 ∧ fragment.toNat ∉ s.catchUp.req.received
            ∧ records.length = (if fragment.toNat = 51 then 1 else 5) →
          exec (.dumpDataArrival sender requester fragment records) s = .next { r with catchUp := { r.catchUp with
            req := { s.catchUp.req with receiveWait := some 8, received := insertNat fragment.toNat s.catchUp.req.received }
            buffer := writeBuffer s.catchUp.buffer (5 * fragment.toNat) records } })
        ∧ (¬ (fragment.toNat < 52 ∧ fragment.toNat ∉ s.catchUp.req.received
            ∧ records.length = (if fragment.toNat = 51 then 1 else 5)) →
          exec (.dumpDataArrival sender requester fragment records) s = .next { r with catchUp := { r.catchUp with
            req := { s.catchUp.req with receiveWait := some 8 } } }))
      ∧ ∀ torn check,
        (torn = false ∧ (∀ j, j < 52 → j ∈ s.catchUp.req.received)
            ∧ checkValue 0 (s.catchUp.buffer.toList.map recordOr) = check →
          exec (.dumpEndArrival sender requester torn check) s = .next { r with catchUp := { r.catchUp with
            req := { s.catchUp.req with state := .applyPending, receiveWait := none } } })
        ∧ (¬ (torn = false ∧ (∀ j, j < 52 → j ∈ s.catchUp.req.received)
            ∧ checkValue 0 (s.catchUp.buffer.toList.map recordOr) = check) →
          ∃ t, exec (.dumpEndArrival sender requester torn check) s = .next t
            ∧ t.catchUp.req.tries = s.catchUp.req.tries + 1 ∧ t.catchUp.req.missed = s.catchUp.req.missed
            ∧ t.catchUp.req.received = [] ∧ t.catchUp.buffer = emptyBuffer
            ∧ (s.catchUp.req.tries + 1 < 4 →
                t.catchUp.req.state = .asking ∧ t.catchUp.req.owed = some ⟨.dumpRequest, 0⟩ ∧ t.events = s.events)
            ∧ (4 ≤ s.catchUp.req.tries + 1 → t.catchUp.req.state = .retryWait ∧ t.catchUp.req.retryWait = some 64
                ∧ t.events = joinQueue s.events ⟨.dumpFailed, s.timer.frame, none, none, none, none, false⟩)))

/-! ### Scan-out -/

/-- READ_REQUEST_ISSUE and READ_ANSWER: a fetch in progress issues the request of its next pixel at the address of the canvas
under its pan, one at each pixel clock (log 37), and an answer fills its next slot; answers of a fetch that was cut or given up are
counted, and discarded first (log 21). Where the clock of the scan position has issued its request, the row is the next pixel clock:
the scan moves on to it (log 5), its output 0 (log 31), a fetch that this takes out of its own line is cut, and the request goes out
there. Without a request left at the clock, or at the last clock of a frame that has issued its own, the row changes nothing
(logs 3, 5). -/
def Obligations.FetchesReadTheCanvasInOrder : Prop :=
  (∀ (s : State) (f : Fetch) (y : Nat), s.timer.running = true → s.pixel.fetch = some f →
    (s.pixel.buffer f.buffer).line = some y →
    (f.issued < s.cfg.width.toNat → s.pixel.requestedHere = false →
      exec .readRequestIssue s = .next { s with pixel := { s.pixel with
        requestedHere := true
        fetch := some { f with issued := f.issued + 1 }
        request := some (BitVec.ofNat 24 (s.cfg.base.toNat
          + (s.cfg.y0.toNat + (s.pixel.buffer f.buffer).panY.toNat + y) % s.cfg.canvasHeight.toNat * s.cfg.stride.toNat
          + (s.cfg.x0.toNat + (s.pixel.buffer f.buffer).panX.toNat + f.issued) % s.cfg.canvasWidth.toNat)) } })
    ∧ (∀ index, 0 < s.pixel.givenUp →
      exec (.readAnswer index) s = .next { s with pixel := { s.pixel with givenUp := s.pixel.givenUp - 1 } })
    ∧ (∀ index, s.pixel.givenUp = 0 → f.answered < f.issued → f.answered < (s.pixel.buffer f.buffer).slots.length →
      ∃ t, exec (.readAnswer index) s = .next t
        ∧ (t.pixel.buffer f.buffer).slots = (s.pixel.buffer f.buffer).slots.set f.answered (some index)
        ∧ (f.answered + 1 < s.cfg.width.toNat → t.pixel.fetch = some { f with answered := f.answered + 1 })
        ∧ (f.answered + 1 = s.cfg.width.toNat → s.pixel.queued = none → t.pixel.fetch = none)
        ∧ (∀ n, f.answered + 1 = s.cfg.width.toNat → s.pixel.queued = some n →
            t.pixel.fetch = some ⟨n, 0, 0⟩ ∧ t.pixel.queued = none)
        ∧ t.wall = s.wall ∧ t.edit = s.edit ∧ t.timer = s.timer ∧ t.events = s.events))
  ∧ ∀ s : State,
    let left (v : State) : Prop := v.timer.running = true ∧ ∃ f y, v.pixel.fetch = some f
      ∧ (v.pixel.buffer f.buffer).line = some y ∧ f.issued < v.cfg.width.toNat
    (s.pixel.requestedHere = false → ¬ left s → exec .readRequestIssue s = .next s)
    ∧ (s.pixel.requestedHere = true → s.nextPosition = none → exec .readRequestIssue s = .next s)
    ∧ ∀ line pixel, s.pixel.requestedHere = true → s.nextPosition = some (line, pixel) →
      let u := { s with
        timer := { s.timer with line := line, pixel := pixel }
        pixel := { s.pixel with
          rgb := Colour.black, issuedHere := false, requestedHere := false, scannedHere := false } }
      let cutDue := pixel = s.cfg.width.toNat
        ∧ ∃ f, s.pixel.fetch = some f ∧ (s.pixel.buffer f.buffer).line = some line
      ∀ v, (¬ cutDue → v = u)
        → (cutDue → v = { u with pixel := { u.pixel with
            fetch := s.pixel.queued.map fun n => ⟨n, 0, 0⟩
            queued := none
            givenUp := s.pixel.givenUp
              + match s.pixel.fetch with | some f => f.issued - f.answered | none => 0 } })
        → (left v → exec .readRequestIssue s = exec .readRequestIssue v)
          ∧ (¬ left v → exec .readRequestIssue s = .next s)

/-- FETCH_ISSUE and FETCH_CUT: at the start of a line the fetch of the next active line, or of line 0 in the last line, is
issued once with every slot empty and the wall's pan, begun at once or queued; a fetch is cut when the scan leaves pixel W − 1 of
its own line, and the queued one begins. The rows move the scan to their position (log 5), and a fetch issued there is not issued
again (log 37). Where the scan already stands at the line start, the panel keeps its colour; at a line start that the row moves the
scan to, the output is 0 until its pixel is output, and so it is at the latch of a frame start (log 31). At that latch the line-0
fetch stands when its pan is the latched one, and else is issued again with that pan, begun at once, its answers due discarded
(log 21). -/
def Obligations.LineFetchesAreIssuedAndCut : Prop :=
  (∀ (line : Nat) (s : State),
    (s.timer.running = false ∨ line < s.timer.line
        ∨ (s.timer.line = line ∧ (0 < s.timer.pixel ∨ s.pixel.issuedHere = true))
        ∨ (s.cfg.height.toNat ≤ line + 1 ∧ line + 1 ≠ frameLines s.cfg s.timer) →
      exec (.fetchIssue line) s = .next s)
    ∧ ∀ y, s.timer.running = true →
      s.timer.line < line ∨ (s.timer.line = line ∧ s.timer.pixel = 0 ∧ s.pixel.issuedHere = false) →
      (line + 1 < s.cfg.height.toNat ∧ y = line + 1)
        ∨ (s.cfg.height.toNat ≤ line + 1 ∧ line + 1 = frameLines s.cfg s.timer ∧ y = 0) →
      ∃ t n, exec (.fetchIssue line) s = .next t
        ∧ (s.pixel.bufferA.line = some line → n = .b)
        ∧ (s.pixel.bufferA.line ≠ some line → s.pixel.bufferB.line = some line → n = .a)
        ∧ t.pixel.buffer n = ⟨some y, s.wall.panX, s.wall.panY, List.replicate s.cfg.width.toNat none⟩
        ∧ (s.pixel.fetch = none → t.pixel.fetch = some ⟨n, 0, 0⟩ ∧ t.pixel.queued = s.pixel.queued)
        ∧ (s.pixel.fetch ≠ none → t.pixel.fetch = s.pixel.fetch ∧ t.pixel.queued = some n)
        ∧ t.pixel.issuedHere = true
        ∧ (s.timer.line = line → t.pixel.rgb = s.pixel.rgb ∧ t.pixel.scannedHere = s.pixel.scannedHere
          ∧ t.pixel.requestedHere = s.pixel.requestedHere)
        ∧ (s.timer.line < line → t.pixel.rgb = Colour.black ∧ t.pixel.scannedHere = false
          ∧ t.pixel.requestedHere = false)
        ∧ t.timer = { s.timer with line := line, pixel := 0 } ∧ t.wall = s.wall ∧ t.events = s.events)
  ∧ (∀ (s : State) (f : Fetch) (y : Nat), s.timer.running = true → s.pixel.fetch = some f →
      (s.pixel.buffer f.buffer).line = some y → s.timer.line = y → s.timer.pixel ≤ s.cfg.width.toNat →
      ∃ t, exec .fetchCut s = .next t ∧ t.timer = { s.timer with pixel := s.cfg.width.toNat }
        ∧ t.pixel.fetch = s.pixel.queued.map (fun n => ⟨n, 0, 0⟩) ∧ t.pixel.queued = none
        ∧ t.pixel.givenUp = s.pixel.givenUp + (f.issued - f.answered) ∧ t.wall = s.wall ∧ t.events = s.events)
  ∧ ∀ s : State,
    let stands := { s with pixel := { s.pixel with
      latched := ⟨s.wall.palette, s.wall.panX, s.wall.panY, s.wall.level, s.wall.blank,
        (decide (s.ctl.role = .align) || decide (s.ctl.role = .member) || decide (s.ctl.role = .leaving)) && s.wall.valid⟩
      underrun := false, rgb := Colour.black, issuedHere := false, requestedHere := false, scannedHere := false } }
    ((∀ n, (s.pixel.buffer n).line ≠ some 0) → s.latchFrame = stands)
    ∧ ∀ n, (∀ m, (s.pixel.buffer m).line = some 0 ↔ m = n) →
      ((s.pixel.buffer n).panX = s.wall.panX → (s.pixel.buffer n).panY = s.wall.panY → s.latchFrame = stands)
      ∧ (¬ ((s.pixel.buffer n).panX = s.wall.panX ∧ (s.pixel.buffer n).panY = s.wall.panY) →
        s.latchFrame = { stands with pixel := { s.latchFrame.pixel with latched := stands.pixel.latched } }
        ∧ s.latchFrame.pixel.buffer n = ⟨some 0, s.wall.panX, s.wall.panY, List.replicate s.cfg.width.toNat none⟩
        ∧ (∀ m, m ≠ n → s.latchFrame.pixel.buffer m = s.pixel.buffer m)
        ∧ s.latchFrame.pixel.fetch = some ⟨n, 0, 0⟩ ∧ s.latchFrame.pixel.queued = none
        ∧ (s.pixel.fetch = none → s.latchFrame.pixel.givenUp = s.pixel.givenUp)
        ∧ (∀ f, s.pixel.fetch = some f → s.latchFrame.pixel.givenUp = s.pixel.givenUp + (f.issued - f.answered))
        ∧ s.latchFrame.pixel.underrun = false ∧ s.latchFrame.pixel.rgb = Colour.black
        ∧ s.latchFrame.pixel.issuedHere = false ∧ s.latchFrame.pixel.requestedHere = false
        ∧ s.latchFrame.pixel.scannedHere = false ∧ s.latchFrame.pixel.request = s.pixel.request)

/-- ACTIVE_PIXEL_SCAN: an active pixel is output as 0 when the show decision is false; from the latched palette, level and blank
when its slot holds an index; else it is an underrun, output as 0, which posts PIXEL-UNDERRUN once in a frame. The row moves the
scan to the pixel (log 5), which is output once: a slot filled after its pixel has been scanned is not shown, and a row whose
pixel is output already or has been passed changes nothing (log 37). The layout of a frame under its correction: T = P + c clocks in
M lines, each of L clocks but the last, which has what is left. While the timer runs, the frame pulse is asserted in line 0, the line
pulse in the last L − W clocks of a line, data-enable at an active pixel; while it is stopped, no timing signal is. -/
def Obligations.ActivePixelsShowTheLatchedState : Prop :=
  (∀ (line pixel : Nat) (s : State),
    (s.timer.running = false ∨ line < s.timer.line
        ∨ (s.timer.line = line ∧ (pixel < s.timer.pixel ∨ (s.timer.pixel = pixel ∧ s.pixel.scannedHere = true))) →
      exec (.activePixelScan line pixel) s = .next s)
    ∧ (s.timer.running = true → line < s.cfg.height.toNat → pixel < s.cfg.width.toNat →
      s.timer.line < line
        ∨ (s.timer.line = line ∧ (s.timer.pixel < pixel ∨ (s.timer.pixel = pixel ∧ s.pixel.scannedHere = false))) →
      let u := { s with
        timer := { s.timer with line := line, pixel := pixel }
        pixel := { s.pixel with
          scannedHere := true
          issuedHere := decide (s.timer.line = line ∧ s.timer.pixel = pixel) && s.pixel.issuedHere
          requestedHere := decide (s.timer.line = line ∧ s.timer.pixel = pixel) && s.pixel.requestedHere } }
      (s.pixel.latched.showing = false →
        exec (.activePixelScan line pixel) s = .next { u with pixel := { u.pixel with rgb := Colour.black } })
      ∧ (∀ index c, s.pixel.latched.showing = true → s.pixel.indexAt line pixel = some index →
        s.pixel.latched.palette[index.toNat]? = some c →
        ∃ t, exec (.activePixelScan line pixel) s = .next t ∧ t = { u with pixel := { u.pixel with rgb := t.pixel.rgb } }
          ∧ (s.pixel.latched.blank = true → t.pixel.rgb = ⟨0, 0, 0⟩)
          ∧ (s.pixel.latched.blank = false →
              t.pixel.rgb.r.toNat = c.r.toNat * (s.pixel.latched.level.toNat + 1) / 256
              ∧ t.pixel.rgb.g.toNat = c.g.toNat * (s.pixel.latched.level.toNat + 1) / 256
              ∧ t.pixel.rgb.b.toNat = c.b.toNat * (s.pixel.latched.level.toNat + 1) / 256))
      ∧ (s.pixel.latched.showing = true → s.pixel.indexAt line pixel = none →
        exec (.activePixelScan line pixel) s = .next { u with
          pixel := { u.pixel with rgb := Colour.black, underrun := true }
          events := if s.pixel.underrun then s.events
            else joinQueue s.events ⟨.pixelUnderrun, s.timer.frame, none, none, none, none, false⟩ })))
  ∧ (∀ (c : ConfigRecord) (t : Timer),
    let l := c.lineLength.toNat
    let clocks : Int := ((l * c.lines.toNat : Nat) : Int) + t.correction
    0 < l → 0 < clocks →
      ((frameLines c t : Int) - 1) * l < clocks ∧ clocks ≤ (frameLines c t : Int) * l
      ∧ (∀ line, line + 1 < frameLines c t → lineClocks c t line = l)
      ∧ ∀ line, line + 1 = frameLines c t → (lineClocks c t line : Int) = clocks - (line : Int) * l)
  ∧ ∀ s : State,
    (s.framePulse = true ↔ s.timer.running = true ∧ s.timer.line = 0)
    ∧ (s.linePulse = true ↔ s.timer.running = true
      ∧ lineClocks s.cfg s.timer s.timer.line ≤ s.timer.pixel + (s.cfg.lineLength.toNat - s.cfg.width.toNat))
    ∧ (s.dataEnable = true ↔
      s.timer.running = true ∧ s.timer.line < s.cfg.height.toNat ∧ s.timer.pixel < s.cfg.width.toNat)

/-! ### Events, conflicts, timing -/

/-- A posted event joins the tail with its mark false while the queue holds fewer than 32 entries; at 32 it is discarded and the
tail's overrun mark is set. The interrupt line follows the count of entries. -/
def Obligations.PostedEventsJoinOrMarkTheTail : Prop :=
  (∀ (q : List Event) (e : Event), q.length < 32 → joinQueue q e = q ++ [e])
  ∧ (∀ (q : List Event) (last e : Event), (q ++ [last]).length = 32 →
      joinQueue (q ++ [last]) e = q ++ [{ last with overrun := true }])
  ∧ (∀ (s : State) (kind : EventKind) (station : Option Station) (id : Option EditId) (reason : Option Reason)
      (role : Option Role),
      s.post kind station id reason role
        = { s with events := joinQueue s.events ⟨kind, s.timer.frame, station, id, reason, role, false⟩ })
  ∧ ∀ s : State, s.interrupt = true ↔ s.events ≠ []

/-- Two edits conflict when they would write the same item: two PALETTE edits whose ranges share an index, and two PAN, two LEVEL
or two BLANK edits; edits of different kinds never. -/
def Obligations.EditsConflictWhenTheyWriteOneItem : Prop :=
  (∀ s c k s' c' k', Target.inRange (.palette s c k) = true → Target.inRange (.palette s' c' k') = true →
    (Target.conflicts (.palette s c k) (.palette s' c' k') = true ↔
    ∃ i : Nat, (s.toNat ≤ i ∧ i < s.toNat + c.toNat) ∧ (s'.toNat ≤ i ∧ i < s'.toNat + c'.toNat)))
  ∧ (∀ x y x' y', Target.conflicts (.pan x y) (.pan x' y') = true)
  ∧ (∀ v v', Target.conflicts (.level v) (.level v') = true)
  ∧ (∀ b b', Target.conflicts (.blank b) (.blank b') = true)
  ∧ (∀ t t' : Target, t.code ≠ t'.code → t.conflicts t' = false)

/-- The adopt of a peer at forward distance d: the shortening form when d mod P is within the shortening limit and the jump is not
2^32, else the lengthening form; both corrections lie within the limits of a record in range. -/
def Obligations.AdoptTakesTheShorteningOrTheLengtheningForm : Prop :=
  ∀ (c : ConfigRecord) (d : Nat), c.values.inRange = true → d < 4294967296 * (c.lineLength.toNat * c.lines.toNat) →
    let p := c.lineLength.toNat * c.lines.toNat
    let limit : Int := ((c.lines.toNat : Int) - c.height.toNat - 1) * c.lineLength.toNat
    (((d % p : Nat) : Int) ≤ limit → 1 + d / p ≠ 4294967296 →
      adoptForm c d = (-((d % p : Nat) : Int), BitVec.ofNat 32 (1 + d / p)))
    ∧ (¬ (((d % p : Nat) : Int) ≤ limit ∧ 1 + d / p ≠ 4294967296) →
      adoptForm c d = ((p : Int) - ((d % p : Nat) : Int),
        if (2 + d / p) % 4294967296 = 0 then 4294967295 else BitVec.ofNat 32 ((2 + d / p) % 4294967296)))
    ∧ -limit ≤ (adoptForm c d).1 ∧ (adoptForm c d).1 ≤ p ∧ (adoptForm c d).2 ≠ 0

/-- What the Frame Timer chooses at a frame start. In LISTEN it adopts the peer ahead by most of those LIVE that report MEMBER with
a fresh offset. In ALIGN, MEMBER and LEAVING it takes the first of these: an adopt of the candidate ahead by most, which is a
renumber; no correction without a contributor, the lock FREE; no correction without a remaining offset; the regime of the wall
error. Every fresh offset of a LIVE entry is used. The regimes: COARSE from 4 × L on, MEDIUM from 16 on, FINE below, with their
corrections, the trim step of FINE alone, and the lock counter. That RENUMBERED comes before LOCK-LOST is log 23. -/
def Obligations.WallErrorChoosesTheRegime : Prop :=
  (∀ (s : State) (e : Int),
    let l : Int := (s.cfg.lineLength.toNat : Int)
    let p : Int := ((s.cfg.lineLength.toNat * s.cfg.lines.toNat : Nat) : Int)
    let limit : Int := ((s.cfg.lines.toNat : Int) - s.cfg.height.toNat - 1) * l
    (4 * l ≤ |e| → (s.steer e).timer.correction = max (-limit) (min p e) ∧ (s.steer e).timer.trim = s.timer.trim
      ∧ (s.steer e).timer.lockCount = 0 ∧ (s.steer e).timer.lock = .settling)
    ∧ (16 ≤ |e| → |e| < 4 * l → (s.steer e).timer.correction = max (-l) (min l (e.tdiv 2))
      ∧ (s.steer e).timer.trim = s.timer.trim ∧ (s.steer e).timer.lockCount = 0 ∧ (s.steer e).timer.lock = .settling)
    ∧ (|e| < 16 → 16 ≤ 4 * l → (s.steer e).timer.correction = e.tdiv 2
      ∧ (s.steer e).timer.trim.toNat = (if 0 < e then min 1023 (s.timer.trim.toNat + 1)
          else if e < 0 then s.timer.trim.toNat - 1 else s.timer.trim.toNat)
      ∧ (s.timer.lockCount < 7 → (s.steer e).timer.lockCount = s.timer.lockCount + 1
          ∧ (s.steer e).timer.lock = s.timer.lock)
      ∧ (7 ≤ s.timer.lockCount → (s.steer e).timer.lockCount = 8 ∧ (s.steer e).timer.lock = .locked)))
  ∧ (∀ (p : Nat) (o : Offset),
    forwardDistance p o = (match o.value with
      | .value v => (if v ≤ 0 then -v else 4294967296 * p - v).toNat
      | .farAhead | .farBehind => (((o.peer.frame - o.own.frame).toNat * p
          + ((o.peer.phase : Int) - (o.own.phase : Int))) % (4294967296 * p)).toNat)
    ∧ (o.candidate p = true ↔ o.value = .farAhead ∨ ∃ v, o.value = .value v ∧ v ≤ -((p / 2 : Nat) : Int))
    ∧ (∀ v, o.remaining p = some v ↔ o.value = .value v ∧ -((p / 2 : Nat) : Int) < v ∧ v < ((p / 2 : Nat) : Int)))
  ∧ (∀ (p : Nat) (a b : Offset), aheadOf p a b = (match a.value, b.value with
      | .farAhead, .farAhead | .farBehind, .farBehind => decide (forwardDistance p b < forwardDistance p a)
      | .value v, .value v' => decide (v < v')
      | .farAhead, _ | .value _, .farBehind => true
      | _, _ => false))
  ∧ ∀ s : State,
    let p := s.cfg.lineLength.toNat * s.cfg.lines.toNat
    let used := mapTable (fun x : Peer =>
      if x.state = .live then { x with offset := x.offset.map fun o => { o with fresh := false } } else x) s.peers
    let fresh (n : Nat) (o : Offset) : Prop := ∃ x, s.peerAt n = some x ∧ x.state = .live ∧ x.offset = some o ∧ o.fresh = true
    let member (n : Nat) : Prop := ∃ x, s.peerAt n = some x ∧ x.reported.map (·.role) = some .member
    let most (eligible : Nat → Offset → Prop) (n : Nat) (o : Offset) : Prop := eligible n o
      ∧ ∀ m b, eligible m b → aheadOf p b o = false ∧ (aheadOf p o b = false → n ≤ m)
    (s.ctl.role = .offline ∨ s.ctl.role = .detached →
      s.timerWork = ({ s with timer := { s.timer with correction := 0 } }, none))
    ∧ (s.ctl.role = .listen →
      ((∀ n o, ¬ (fresh n o ∧ member n)) →
        s.timerWork = ({ s with peers := used, timer := { s.timer with correction := 0 } }, none))
      ∧ ∀ n o, most (fun n o => fresh n o ∧ member n) n o →
        s.timerWork = ({ s with
          peers := used
          timer := { s.timer with
            correction := (adoptForm s.cfg (forwardDistance p o)).1
            advance := some (adoptForm s.cfg (forwardDistance p o)).2 } }, some .listen))
    ∧ (s.ctl.role = .align ∨ s.ctl.role = .member ∨ s.ctl.role = .leaving →
      (∀ n o, most (fun n o => fresh n o ∧ o.candidate p = true) n o →
        s.timerWork = ({ s with
          peers := used
          timer := { s.timer with
            correction := (adoptForm s.cfg (forwardDistance p o)).1
            advance := some (adoptForm s.cfg (forwardDistance p o)).2
            lock := .settling, lockCount := 0 }
          events :=
            let q := joinQueue s.events ⟨.renumbered, s.timer.frame, some (BitVec.ofNat 8 n), none, none, none, false⟩
            if s.timer.lock = .locked then
              joinQueue q ⟨.lockLost, s.timer.frame, none, none, none, none, false⟩ else q }, some .renumber))
      ∧ ((∀ n x, s.peerAt n = some x → x.state ≠ .live) →
        s.timerWork = ({ s with
          peers := used
          timer := { s.timer with correction := 0, lock := .free, lockCount := 0 }
          events := if s.timer.lock = .locked then
              joinQueue s.events ⟨.lockLost, s.timer.frame, none, none, none, none, false⟩ else s.events }, none))
      ∧ (∀ n x, s.peerAt n = some x → x.state = .live → (∀ m o, fresh m o → o.candidate p = false) →
        let quiet := { s with
          peers := used
          timer := { s.timer with correction := 0, lock := if s.timer.lock = .free then .settling else s.timer.lock } }
        ((∀ m o, fresh m o → o.remaining p = none) → s.timerWork = (quiet, none))
        ∧ ∀ values : List Int, values ≠ [] →
          values = ((List.range 32).filterMap fun m => (s.peerAt m).bind fun x =>
            if x.state = .live then x.offset.bind fun o => if o.fresh then o.remaining p else none else none) →
          s.timerWork = (quiet.steer (values.sum.tdiv (values.length + 1)), none)))

/-! ### Invariants -/

/-- The laws hold right after a power-on reset. -/
def Obligations.ResetStateKeepsEveryLaw : Prop :=
  State.reset.withinCapacity ∧ State.reset.tableLawful ∧ State.reset.peersLawful ∧ State.reset.recordLawful
  ∧ State.reset.lockLawful ∧ State.reset.correctionLawful ∧ State.reset.latchLawful ∧ State.reset.outsideLawful

/-- Every step keeps the event queue within 32 entries, the refusal list within 4 and the outcome list within 8; and the peer
entries lawful: misses at most 3, below 3 while LIVE, and ABSENT entries cleared. -/
def Obligations.StepsKeepTheListsAndThePeerEntriesLawful : Prop :=
  ∀ s t : State, step s = .next t → (s.withinCapacity → t.withinCapacity) ∧ (s.peersLawful → t.peersLawful)

/-- Every step keeps the record in range and frozen under a running timer, the correction within its limits, and the lock status
and its counter together: LOCKED exactly at 8, FREE only at 0. -/
def Obligations.StepsKeepTheRecordAndTheTimerLawful : Prop :=
  ∀ s t : State, step s = .next t →
    (s.recordLawful → s.correctionLawful → t.recordLawful ∧ t.correctionLawful) ∧ (s.lockLawful → t.lockLawful)

/-- Every step keeps the laws of the edit table: distinct ids, no conflict, at most four own entries, and reservations that fit
the staging pool. -/
def Obligations.StepsKeepTheEditTableLawful : Prop :=
  ∀ s t : State, s.tableLawful → step s = .next t → t.tableLawful

/-- Every step keeps the latched values equal to the live ones, and the output dark without a valid state in a showing role: the
show decision is then false, and where it is false the panel's colour is 0. -/
def Obligations.StepsKeepTheLatchedCopyLawful : Prop :=
  ∀ s t : State, s.latchLawful → step s = .next t → t.latchLawful

/-- Every step keeps a station in OFFLINE or DETACHED empty of everything that belongs to the wall. -/
def Obligations.StepsKeepAStationOutsideTheWallEmpty : Prop :=
  ∀ s t : State, s.outsideLawful → step s = .next t → t.outsideLawful
end

