-- ==== Sys2Proof/Laws/State.lean ====
section
/-! SUPPORT. What each named update of the state leaves in each field, one lemma for each field, each true by unfolding. -/

namespace Sys2Proof.Machine

open Sys2Proof

variable (s : State)

/-! ### post -/

@[simp] theorem State.post_wall (k : EventKind) (st : Option Station) (id : Option EditId) (r : Option Reason) (ro : Option Role) :
    (s.post k st id r ro).wall = s.wall := rfl
@[simp] theorem State.post_edit (k : EventKind) (st : Option Station) (id : Option EditId) (r : Option Reason) (ro : Option Role) :
    (s.post k st id r ro).edit = s.edit := rfl
@[simp] theorem State.post_peers (k : EventKind) (st : Option Station) (id : Option EditId) (r : Option Reason) (ro : Option Role) :
    (s.post k st id r ro).peers = s.peers := rfl
@[simp] theorem State.post_timer (k : EventKind) (st : Option Station) (id : Option EditId) (r : Option Reason) (ro : Option Role) :
    (s.post k st id r ro).timer = s.timer := rfl
@[simp] theorem State.post_ctl (k : EventKind) (st : Option Station) (id : Option EditId) (r : Option Reason) (ro : Option Role) :
    (s.post k st id r ro).ctl = s.ctl := rfl
@[simp] theorem State.post_catchUp (k : EventKind) (st : Option Station) (id : Option EditId) (r : Option Reason) (ro : Option Role) :
    (s.post k st id r ro).catchUp = s.catchUp := rfl
@[simp] theorem State.post_bus (k : EventKind) (st : Option Station) (id : Option EditId) (r : Option Reason) (ro : Option Role) :
    (s.post k st id r ro).bus = s.bus := rfl
@[simp] theorem State.post_pixel (k : EventKind) (st : Option Station) (id : Option EditId) (r : Option Reason) (ro : Option Role) :
    (s.post k st id r ro).pixel = s.pixel := rfl
@[simp] theorem State.post_cfg (k : EventKind) (st : Option Station) (id : Option EditId) (r : Option Reason) (ro : Option Role) :
    (s.post k st id r ro).cfg = s.cfg := rfl
@[simp] theorem State.post_port (k : EventKind) (st : Option Station) (id : Option EditId) (r : Option Reason) (ro : Option Role) :
    (s.post k st id r ro).port = s.port := rfl
@[simp] theorem State.post_events (k : EventKind) (st : Option Station) (id : Option EditId) (r : Option Reason) (ro : Option Role) :
    (s.post k st id r ro).events = joinQueue s.events ⟨k, s.timer.frame, st, id, r, ro, false⟩ := rfl
@[simp] theorem State.post_pending (k : EventKind) (st : Option Station) (id : Option EditId) (r : Option Reason) (ro : Option Role) :
    (s.post k st id r ro).pending = s.pending := rfl
@[simp] theorem State.post_freeCount (k : EventKind) (st : Option Station) (id : Option EditId) (r : Option Reason) (ro : Option Role) :
    (s.post k st id r ro).freeCount = s.freeCount := rfl

/-! ### withdraw -/

@[simp] theorem State.withdraw_wall (src : Source) : (s.withdraw src).wall = s.wall := rfl
@[simp] theorem State.withdraw_edit (src : Source) : (s.withdraw src).edit = s.edit := rfl
@[simp] theorem State.withdraw_peers (src : Source) : (s.withdraw src).peers = s.peers := rfl
@[simp] theorem State.withdraw_timer (src : Source) : (s.withdraw src).timer = s.timer := rfl
@[simp] theorem State.withdraw_ctl (src : Source) : (s.withdraw src).ctl = s.ctl := rfl
@[simp] theorem State.withdraw_catchUp (src : Source) : (s.withdraw src).catchUp = s.catchUp := rfl
@[simp] theorem State.withdraw_bus (src : Source) : (s.withdraw src).bus = s.bus.withdraw src := rfl
@[simp] theorem State.withdraw_pixel (src : Source) : (s.withdraw src).pixel = s.pixel := rfl
@[simp] theorem State.withdraw_cfg (src : Source) : (s.withdraw src).cfg = s.cfg := rfl
@[simp] theorem State.withdraw_port (src : Source) : (s.withdraw src).port = s.port := rfl
@[simp] theorem State.withdraw_events (src : Source) : (s.withdraw src).events = s.events := rfl
@[simp] theorem State.withdraw_pending (src : Source) : (s.withdraw src).pending = s.pending := rfl
@[simp] theorem State.withdraw_freeCount (src : Source) : (s.withdraw src).freeCount = s.freeCount := rfl

/-! ### putEntry -/

@[simp] theorem State.putEntry_wall (i : Nat) (e : Option EditEntry) : (s.putEntry i e).wall = s.wall := rfl
@[simp] theorem State.putEntry_edit (i : Nat) (e : Option EditEntry) :
    (s.putEntry i e).edit = { s.edit with table := s.edit.table.setIfInBounds i e } := rfl
@[simp] theorem State.putEntry_peers (i : Nat) (e : Option EditEntry) : (s.putEntry i e).peers = s.peers := rfl
@[simp] theorem State.putEntry_timer (i : Nat) (e : Option EditEntry) : (s.putEntry i e).timer = s.timer := rfl
@[simp] theorem State.putEntry_ctl (i : Nat) (e : Option EditEntry) : (s.putEntry i e).ctl = s.ctl := rfl
@[simp] theorem State.putEntry_catchUp (i : Nat) (e : Option EditEntry) : (s.putEntry i e).catchUp = s.catchUp := rfl
@[simp] theorem State.putEntry_bus (i : Nat) (e : Option EditEntry) : (s.putEntry i e).bus = s.bus := rfl
@[simp] theorem State.putEntry_pixel (i : Nat) (e : Option EditEntry) : (s.putEntry i e).pixel = s.pixel := rfl
@[simp] theorem State.putEntry_cfg (i : Nat) (e : Option EditEntry) : (s.putEntry i e).cfg = s.cfg := rfl
@[simp] theorem State.putEntry_port (i : Nat) (e : Option EditEntry) : (s.putEntry i e).port = s.port := rfl
@[simp] theorem State.putEntry_events (i : Nat) (e : Option EditEntry) : (s.putEntry i e).events = s.events := rfl
@[simp] theorem State.putEntry_pending (i : Nat) (e : Option EditEntry) : (s.putEntry i e).pending = s.pending := rfl
@[simp] theorem State.putEntry_freeCount (i : Nat) (e : Option EditEntry) :
    (s.putEntry i e).freeCount = s.freeCount := rfl

/-! ### enter -/

@[simp] theorem State.enter_wall (i : Nat) (e : EditEntry) (k : Option MsgKind) : (s.enter i e k).wall = s.wall := rfl
@[simp] theorem State.enter_edit (i : Nat) (e : EditEntry) (k : Option MsgKind) :
    (s.enter i e k).edit = { s.edit with table := s.edit.table.setIfInBounds i (some { e with owed := k.map fun k => ⟨k, 0⟩ }) } := rfl
@[simp] theorem State.enter_peers (i : Nat) (e : EditEntry) (k : Option MsgKind) :
    (s.enter i e k).peers = s.peers := rfl
@[simp] theorem State.enter_timer (i : Nat) (e : EditEntry) (k : Option MsgKind) :
    (s.enter i e k).timer = s.timer := rfl
@[simp] theorem State.enter_ctl (i : Nat) (e : EditEntry) (k : Option MsgKind) : (s.enter i e k).ctl = s.ctl := rfl
@[simp] theorem State.enter_catchUp (i : Nat) (e : EditEntry) (k : Option MsgKind) :
    (s.enter i e k).catchUp = s.catchUp := rfl
@[simp] theorem State.enter_bus (i : Nat) (e : EditEntry) (k : Option MsgKind) :
    (s.enter i e k).bus = s.bus.withdraw (.entry i) := rfl
@[simp] theorem State.enter_pixel (i : Nat) (e : EditEntry) (k : Option MsgKind) :
    (s.enter i e k).pixel = s.pixel := rfl
@[simp] theorem State.enter_cfg (i : Nat) (e : EditEntry) (k : Option MsgKind) : (s.enter i e k).cfg = s.cfg := rfl
@[simp] theorem State.enter_port (i : Nat) (e : EditEntry) (k : Option MsgKind) : (s.enter i e k).port = s.port := rfl
@[simp] theorem State.enter_events (i : Nat) (e : EditEntry) (k : Option MsgKind) :
    (s.enter i e k).events = s.events := rfl
@[simp] theorem State.enter_pending (i : Nat) (e : EditEntry) (k : Option MsgKind) :
    (s.enter i e k).pending = s.pending := rfl
@[simp] theorem State.enter_freeCount (i : Nat) (e : EditEntry) (k : Option MsgKind) :
    (s.enter i e k).freeCount = s.freeCount := rfl

/-! ### removeEntry -/

@[simp] theorem State.removeEntry_wall (i : Nat) : (s.removeEntry i).wall = s.wall := rfl
@[simp] theorem State.removeEntry_edit (i : Nat) :
    (s.removeEntry i).edit = { s.edit with table := s.edit.table.setIfInBounds i none } := rfl
@[simp] theorem State.removeEntry_peers (i : Nat) : (s.removeEntry i).peers = s.peers := rfl
@[simp] theorem State.removeEntry_timer (i : Nat) : (s.removeEntry i).timer = s.timer := rfl
@[simp] theorem State.removeEntry_ctl (i : Nat) : (s.removeEntry i).ctl = s.ctl := rfl
@[simp] theorem State.removeEntry_catchUp (i : Nat) : (s.removeEntry i).catchUp = s.catchUp := rfl
@[simp] theorem State.removeEntry_bus (i : Nat) : (s.removeEntry i).bus = s.bus.withdraw (.entry i) := rfl
@[simp] theorem State.removeEntry_pixel (i : Nat) : (s.removeEntry i).pixel = s.pixel := rfl
@[simp] theorem State.removeEntry_cfg (i : Nat) : (s.removeEntry i).cfg = s.cfg := rfl
@[simp] theorem State.removeEntry_port (i : Nat) : (s.removeEntry i).port = s.port := rfl
@[simp] theorem State.removeEntry_events (i : Nat) : (s.removeEntry i).events = s.events := rfl
@[simp] theorem State.removeEntry_pending (i : Nat) : (s.removeEntry i).pending = s.pending := rfl
@[simp] theorem State.removeEntry_freeCount (i : Nat) : (s.removeEntry i).freeCount = s.freeCount := rfl

/-! ### emptyRefusals -/

@[simp] theorem State.emptyRefusals_wall : (s.emptyRefusals).wall = s.wall := rfl
@[simp] theorem State.emptyRefusals_edit : (s.emptyRefusals).edit = { s.edit with refusals := [] } := rfl
@[simp] theorem State.emptyRefusals_peers : (s.emptyRefusals).peers = s.peers := rfl
@[simp] theorem State.emptyRefusals_timer : (s.emptyRefusals).timer = s.timer := rfl
@[simp] theorem State.emptyRefusals_ctl : (s.emptyRefusals).ctl = s.ctl := rfl
@[simp] theorem State.emptyRefusals_catchUp : (s.emptyRefusals).catchUp = s.catchUp := rfl
@[simp] theorem State.emptyRefusals_bus : (s.emptyRefusals).bus = s.bus.withdraw .refusal := rfl
@[simp] theorem State.emptyRefusals_pixel : (s.emptyRefusals).pixel = s.pixel := rfl
@[simp] theorem State.emptyRefusals_cfg : (s.emptyRefusals).cfg = s.cfg := rfl
@[simp] theorem State.emptyRefusals_port : (s.emptyRefusals).port = s.port := rfl
@[simp] theorem State.emptyRefusals_events : (s.emptyRefusals).events = s.events := rfl
@[simp] theorem State.emptyRefusals_pending : (s.emptyRefusals).pending = s.pending := rfl
@[simp] theorem State.emptyRefusals_freeCount : (s.emptyRefusals).freeCount = s.freeCount := rfl

/-! ### setOutcome -/

@[simp] theorem State.setOutcome_wall (id : EditId) (f : OutcomeEntry → OutcomeEntry) :
    (s.setOutcome id f).wall = s.wall := rfl
@[simp] theorem State.setOutcome_edit (id : EditId) (f : OutcomeEntry → OutcomeEntry) :
    (s.setOutcome id f).edit = { s.edit with outcomes := s.edit.outcomes.map fun o => if o.id = id then f o else o } := rfl
@[simp] theorem State.setOutcome_peers (id : EditId) (f : OutcomeEntry → OutcomeEntry) :
    (s.setOutcome id f).peers = s.peers := rfl
@[simp] theorem State.setOutcome_timer (id : EditId) (f : OutcomeEntry → OutcomeEntry) :
    (s.setOutcome id f).timer = s.timer := rfl
@[simp] theorem State.setOutcome_ctl (id : EditId) (f : OutcomeEntry → OutcomeEntry) :
    (s.setOutcome id f).ctl = s.ctl := rfl
@[simp] theorem State.setOutcome_catchUp (id : EditId) (f : OutcomeEntry → OutcomeEntry) :
    (s.setOutcome id f).catchUp = s.catchUp := rfl
@[simp] theorem State.setOutcome_bus (id : EditId) (f : OutcomeEntry → OutcomeEntry) :
    (s.setOutcome id f).bus = s.bus := rfl
@[simp] theorem State.setOutcome_pixel (id : EditId) (f : OutcomeEntry → OutcomeEntry) :
    (s.setOutcome id f).pixel = s.pixel := rfl
@[simp] theorem State.setOutcome_cfg (id : EditId) (f : OutcomeEntry → OutcomeEntry) :
    (s.setOutcome id f).cfg = s.cfg := rfl
@[simp] theorem State.setOutcome_port (id : EditId) (f : OutcomeEntry → OutcomeEntry) :
    (s.setOutcome id f).port = s.port := rfl
@[simp] theorem State.setOutcome_events (id : EditId) (f : OutcomeEntry → OutcomeEntry) :
    (s.setOutcome id f).events = s.events := rfl
@[simp] theorem State.setOutcome_pending (id : EditId) (f : OutcomeEntry → OutcomeEntry) :
    (s.setOutcome id f).pending = s.pending := rfl
@[simp] theorem State.setOutcome_freeCount (id : EditId) (f : OutcomeEntry → OutcomeEntry) :
    (s.setOutcome id f).freeCount = s.freeCount := rfl

/-! ### mapPeers -/

@[simp] theorem State.mapPeers_wall (f : Peer → Peer) : (s.mapPeers f).wall = s.wall := rfl
@[simp] theorem State.mapPeers_edit (f : Peer → Peer) : (s.mapPeers f).edit = s.edit := rfl
@[simp] theorem State.mapPeers_peers (f : Peer → Peer) : (s.mapPeers f).peers = mapTable f s.peers := rfl
@[simp] theorem State.mapPeers_timer (f : Peer → Peer) : (s.mapPeers f).timer = s.timer := rfl
@[simp] theorem State.mapPeers_ctl (f : Peer → Peer) : (s.mapPeers f).ctl = s.ctl := rfl
@[simp] theorem State.mapPeers_catchUp (f : Peer → Peer) : (s.mapPeers f).catchUp = s.catchUp := rfl
@[simp] theorem State.mapPeers_bus (f : Peer → Peer) : (s.mapPeers f).bus = s.bus := rfl
@[simp] theorem State.mapPeers_pixel (f : Peer → Peer) : (s.mapPeers f).pixel = s.pixel := rfl
@[simp] theorem State.mapPeers_cfg (f : Peer → Peer) : (s.mapPeers f).cfg = s.cfg := rfl
@[simp] theorem State.mapPeers_port (f : Peer → Peer) : (s.mapPeers f).port = s.port := rfl
@[simp] theorem State.mapPeers_events (f : Peer → Peer) : (s.mapPeers f).events = s.events := rfl
@[simp] theorem State.mapPeers_pending (f : Peer → Peer) : (s.mapPeers f).pending = s.pending := rfl
@[simp] theorem State.mapPeers_freeCount (f : Peer → Peer) : (s.mapPeers f).freeCount = s.freeCount := rfl

/-! ### setReq -/

@[simp] theorem State.setReq_wall (r : Requester) : (s.setReq r).wall = s.wall := rfl
@[simp] theorem State.setReq_edit (r : Requester) : (s.setReq r).edit = s.edit := rfl
@[simp] theorem State.setReq_peers (r : Requester) : (s.setReq r).peers = s.peers := rfl
@[simp] theorem State.setReq_timer (r : Requester) : (s.setReq r).timer = s.timer := rfl
@[simp] theorem State.setReq_ctl (r : Requester) : (s.setReq r).ctl = s.ctl := rfl
@[simp] theorem State.setReq_catchUp (r : Requester) : (s.setReq r).catchUp = { s.catchUp with req := r } := rfl
@[simp] theorem State.setReq_bus (r : Requester) : (s.setReq r).bus = s.bus := rfl
@[simp] theorem State.setReq_pixel (r : Requester) : (s.setReq r).pixel = s.pixel := rfl
@[simp] theorem State.setReq_cfg (r : Requester) : (s.setReq r).cfg = s.cfg := rfl
@[simp] theorem State.setReq_port (r : Requester) : (s.setReq r).port = s.port := rfl
@[simp] theorem State.setReq_events (r : Requester) : (s.setReq r).events = s.events := rfl
@[simp] theorem State.setReq_pending (r : Requester) : (s.setReq r).pending = s.pending := rfl
@[simp] theorem State.setReq_freeCount (r : Requester) : (s.setReq r).freeCount = s.freeCount := rfl

/-! ### setResp -/

@[simp] theorem State.setResp_wall (r : Responder) : (s.setResp r).wall = s.wall := rfl
@[simp] theorem State.setResp_edit (r : Responder) : (s.setResp r).edit = s.edit := rfl
@[simp] theorem State.setResp_peers (r : Responder) : (s.setResp r).peers = s.peers := rfl
@[simp] theorem State.setResp_timer (r : Responder) : (s.setResp r).timer = s.timer := rfl
@[simp] theorem State.setResp_ctl (r : Responder) : (s.setResp r).ctl = s.ctl := rfl
@[simp] theorem State.setResp_catchUp (r : Responder) : (s.setResp r).catchUp = { s.catchUp with resp := r } := rfl
@[simp] theorem State.setResp_bus (r : Responder) : (s.setResp r).bus = s.bus := rfl
@[simp] theorem State.setResp_pixel (r : Responder) : (s.setResp r).pixel = s.pixel := rfl
@[simp] theorem State.setResp_cfg (r : Responder) : (s.setResp r).cfg = s.cfg := rfl
@[simp] theorem State.setResp_port (r : Responder) : (s.setResp r).port = s.port := rfl
@[simp] theorem State.setResp_events (r : Responder) : (s.setResp r).events = s.events := rfl
@[simp] theorem State.setResp_pending (r : Responder) : (s.setResp r).pending = s.pending := rfl
@[simp] theorem State.setResp_freeCount (r : Responder) : (s.setResp r).freeCount = s.freeCount := rfl

/-! ### clearBuffer -/

@[simp] theorem State.clearBuffer_wall : (s.clearBuffer).wall = s.wall := rfl
@[simp] theorem State.clearBuffer_edit : (s.clearBuffer).edit = s.edit := rfl
@[simp] theorem State.clearBuffer_peers : (s.clearBuffer).peers = s.peers := rfl
@[simp] theorem State.clearBuffer_timer : (s.clearBuffer).timer = s.timer := rfl
@[simp] theorem State.clearBuffer_ctl : (s.clearBuffer).ctl = s.ctl := rfl
@[simp] theorem State.clearBuffer_catchUp : (s.clearBuffer).catchUp = { s.catchUp with buffer := emptyBuffer } := rfl
@[simp] theorem State.clearBuffer_bus : (s.clearBuffer).bus = s.bus := rfl
@[simp] theorem State.clearBuffer_pixel : (s.clearBuffer).pixel = s.pixel := rfl
@[simp] theorem State.clearBuffer_cfg : (s.clearBuffer).cfg = s.cfg := rfl
@[simp] theorem State.clearBuffer_port : (s.clearBuffer).port = s.port := rfl
@[simp] theorem State.clearBuffer_events : (s.clearBuffer).events = s.events := rfl
@[simp] theorem State.clearBuffer_pending : (s.clearBuffer).pending = s.pending := rfl
@[simp] theorem State.clearBuffer_freeCount : (s.clearBuffer).freeCount = s.freeCount := rfl

/-! ### setCorrection -/

@[simp] theorem State.setCorrection_wall (c : Int) : (s.setCorrection c).wall = s.wall := rfl
@[simp] theorem State.setCorrection_edit (c : Int) : (s.setCorrection c).edit = s.edit := rfl
@[simp] theorem State.setCorrection_peers (c : Int) : (s.setCorrection c).peers = s.peers := rfl
@[simp] theorem State.setCorrection_timer (c : Int) :
    (s.setCorrection c).timer = { s.timer with correction := c } := rfl
@[simp] theorem State.setCorrection_ctl (c : Int) : (s.setCorrection c).ctl = s.ctl := rfl
@[simp] theorem State.setCorrection_catchUp (c : Int) : (s.setCorrection c).catchUp = s.catchUp := rfl
@[simp] theorem State.setCorrection_bus (c : Int) : (s.setCorrection c).bus = s.bus := rfl
@[simp] theorem State.setCorrection_pixel (c : Int) : (s.setCorrection c).pixel = s.pixel := rfl
@[simp] theorem State.setCorrection_cfg (c : Int) : (s.setCorrection c).cfg = s.cfg := rfl
@[simp] theorem State.setCorrection_port (c : Int) : (s.setCorrection c).port = s.port := rfl
@[simp] theorem State.setCorrection_events (c : Int) : (s.setCorrection c).events = s.events := rfl
@[simp] theorem State.setCorrection_pending (c : Int) : (s.setCorrection c).pending = s.pending := rfl
@[simp] theorem State.setCorrection_freeCount (c : Int) : (s.setCorrection c).freeCount = s.freeCount := rfl

/-! ### decideAdopt -/

@[simp] theorem State.decideAdopt_wall (o : Offset) : (s.decideAdopt o).wall = s.wall := rfl
@[simp] theorem State.decideAdopt_edit (o : Offset) : (s.decideAdopt o).edit = s.edit := rfl
@[simp] theorem State.decideAdopt_peers (o : Offset) : (s.decideAdopt o).peers = s.peers := rfl
@[simp] theorem State.decideAdopt_timer (o : Offset) :
    (s.decideAdopt o).timer = { s.timer with
      correction := (adoptForm s.cfg (forwardDistance s.cfg.p o)).1
      advance := some (adoptForm s.cfg (forwardDistance s.cfg.p o)).2 } := rfl
@[simp] theorem State.decideAdopt_ctl (o : Offset) : (s.decideAdopt o).ctl = s.ctl := rfl
@[simp] theorem State.decideAdopt_catchUp (o : Offset) : (s.decideAdopt o).catchUp = s.catchUp := rfl
@[simp] theorem State.decideAdopt_bus (o : Offset) : (s.decideAdopt o).bus = s.bus := rfl
@[simp] theorem State.decideAdopt_pixel (o : Offset) : (s.decideAdopt o).pixel = s.pixel := rfl
@[simp] theorem State.decideAdopt_cfg (o : Offset) : (s.decideAdopt o).cfg = s.cfg := rfl
@[simp] theorem State.decideAdopt_port (o : Offset) : (s.decideAdopt o).port = s.port := rfl
@[simp] theorem State.decideAdopt_events (o : Offset) : (s.decideAdopt o).events = s.events := rfl
@[simp] theorem State.decideAdopt_pending (o : Offset) : (s.decideAdopt o).pending = s.pending := rfl
@[simp] theorem State.decideAdopt_freeCount (o : Offset) : (s.decideAdopt o).freeCount = s.freeCount := rfl

/-! ### adoptEffect -/

@[simp] theorem State.adoptEffect_wall : (s.adoptEffect).wall = s.wall := rfl
@[simp] theorem State.adoptEffect_edit : (s.adoptEffect).edit = s.edit := rfl
@[simp] theorem State.adoptEffect_peers : (s.adoptEffect).peers = s.adoptPeers.peers := rfl
@[simp] theorem State.adoptEffect_timer : (s.adoptEffect).timer = s.timer := rfl
@[simp] theorem State.adoptEffect_ctl : (s.adoptEffect).ctl = s.ctl := rfl
@[simp] theorem State.adoptEffect_catchUp : (s.adoptEffect).catchUp = s.catchUp := rfl
@[simp] theorem State.adoptEffect_bus :
    (s.adoptEffect).bus = { s.bus with attempt := s.bus.attempt.map Attempt.adopt, startValid := false } := rfl
@[simp] theorem State.adoptEffect_pixel : (s.adoptEffect).pixel = s.pixel := rfl
@[simp] theorem State.adoptEffect_cfg : (s.adoptEffect).cfg = s.cfg := rfl
@[simp] theorem State.adoptEffect_port : (s.adoptEffect).port = s.port := rfl
@[simp] theorem State.adoptEffect_events : (s.adoptEffect).events = s.events := rfl
@[simp] theorem State.adoptEffect_pending : (s.adoptEffect).pending = s.pending := rfl
@[simp] theorem State.adoptEffect_freeCount : (s.adoptEffect).freeCount = s.freeCount := rfl

/-! ### setRole -/

@[simp] theorem State.setRole_wall (r : Role) : (s.setRole r).wall = s.wall := rfl
@[simp] theorem State.setRole_edit (r : Role) : (s.setRole r).edit = s.edit := rfl
@[simp] theorem State.setRole_peers (r : Role) : (s.setRole r).peers = s.peers := rfl
@[simp] theorem State.setRole_timer (r : Role) : (s.setRole r).timer = s.timer := rfl
@[simp] theorem State.setRole_ctl (r : Role) : (s.setRole r).ctl = { s.ctl with role := r } := rfl
@[simp] theorem State.setRole_catchUp (r : Role) : (s.setRole r).catchUp = s.catchUp := rfl
@[simp] theorem State.setRole_bus (r : Role) : (s.setRole r).bus = s.bus := rfl
@[simp] theorem State.setRole_pixel (r : Role) : (s.setRole r).pixel = s.pixel := rfl
@[simp] theorem State.setRole_cfg (r : Role) : (s.setRole r).cfg = s.cfg := rfl
@[simp] theorem State.setRole_port (r : Role) : (s.setRole r).port = s.port := rfl
@[simp] theorem State.setRole_events (r : Role) :
    (s.setRole r).events = joinQueue s.events ⟨.roleChanged, s.timer.frame, none, none, none, some r, false⟩ := rfl
@[simp] theorem State.setRole_pending (r : Role) : (s.setRole r).pending = s.pending := rfl
@[simp] theorem State.setRole_freeCount (r : Role) : (s.setRole r).freeCount = s.freeCount := rfl

/-! ### restartWait -/

@[simp] theorem State.restartWait_wall : (s.restartWait).wall = s.wall := rfl
@[simp] theorem State.restartWait_edit : (s.restartWait).edit = s.edit := rfl
@[simp] theorem State.restartWait_peers : (s.restartWait).peers = s.peers := rfl
@[simp] theorem State.restartWait_timer : (s.restartWait).timer = s.timer := rfl
@[simp] theorem State.restartWait_ctl : (s.restartWait).ctl = { s.ctl with foundingWait := 0 } := rfl
@[simp] theorem State.restartWait_catchUp : (s.restartWait).catchUp = s.catchUp := rfl
@[simp] theorem State.restartWait_bus : (s.restartWait).bus = s.bus := rfl
@[simp] theorem State.restartWait_pixel : (s.restartWait).pixel = s.pixel := rfl
@[simp] theorem State.restartWait_cfg : (s.restartWait).cfg = s.cfg := rfl
@[simp] theorem State.restartWait_port : (s.restartWait).port = s.port := rfl
@[simp] theorem State.restartWait_events : (s.restartWait).events = s.events := rfl
@[simp] theorem State.restartWait_pending : (s.restartWait).pending = s.pending := rfl
@[simp] theorem State.restartWait_freeCount : (s.restartWait).freeCount = s.freeCount := rfl

/-! ### restartCounts -/

@[simp] theorem State.restartCounts_wall : (s.restartCounts).wall = s.wall := rfl
@[simp] theorem State.restartCounts_edit : (s.restartCounts).edit = s.edit := rfl
@[simp] theorem State.restartCounts_peers : (s.restartCounts).peers = s.peers := rfl
@[simp] theorem State.restartCounts_timer : (s.restartCounts).timer = s.timer := rfl
@[simp] theorem State.restartCounts_ctl :
    (s.restartCounts).ctl = { s.ctl with strikes := 0, ties := 0, split := .armed } := rfl
@[simp] theorem State.restartCounts_catchUp : (s.restartCounts).catchUp = s.catchUp := rfl
@[simp] theorem State.restartCounts_bus : (s.restartCounts).bus = s.bus := rfl
@[simp] theorem State.restartCounts_pixel : (s.restartCounts).pixel = s.pixel := rfl
@[simp] theorem State.restartCounts_cfg : (s.restartCounts).cfg = s.cfg := rfl
@[simp] theorem State.restartCounts_port : (s.restartCounts).port = s.port := rfl
@[simp] theorem State.restartCounts_events : (s.restartCounts).events = s.events := rfl
@[simp] theorem State.restartCounts_pending : (s.restartCounts).pending = s.pending := rfl
@[simp] theorem State.restartCounts_freeCount : (s.restartCounts).freeCount = s.freeCount := rfl

/-! ### setStale -/

@[simp] theorem State.setStale_wall (v : Bool) : (s.setStale v).wall = s.wall := rfl
@[simp] theorem State.setStale_edit (v : Bool) : (s.setStale v).edit = s.edit := rfl
@[simp] theorem State.setStale_peers (v : Bool) : (s.setStale v).peers = s.peers := rfl
@[simp] theorem State.setStale_timer (v : Bool) : (s.setStale v).timer = s.timer := rfl
@[simp] theorem State.setStale_ctl (v : Bool) : (s.setStale v).ctl = { s.ctl with stale := v } := rfl
@[simp] theorem State.setStale_catchUp (v : Bool) : (s.setStale v).catchUp = s.catchUp := rfl
@[simp] theorem State.setStale_bus (v : Bool) : (s.setStale v).bus = s.bus := rfl
@[simp] theorem State.setStale_pixel (v : Bool) : (s.setStale v).pixel = s.pixel := rfl
@[simp] theorem State.setStale_cfg (v : Bool) : (s.setStale v).cfg = s.cfg := rfl
@[simp] theorem State.setStale_port (v : Bool) : (s.setStale v).port = s.port := rfl
@[simp] theorem State.setStale_events (v : Bool) : (s.setStale v).events = s.events := rfl
@[simp] theorem State.setStale_pending (v : Bool) : (s.setStale v).pending = s.pending := rfl
@[simp] theorem State.setStale_freeCount (v : Bool) : (s.setStale v).freeCount = s.freeCount := rfl

/-! ### withdrawBeacon -/

@[simp] theorem State.withdrawBeacon_wall : (s.withdrawBeacon).wall = s.wall := rfl
@[simp] theorem State.withdrawBeacon_edit : (s.withdrawBeacon).edit = s.edit := rfl
@[simp] theorem State.withdrawBeacon_peers : (s.withdrawBeacon).peers = s.peers := rfl
@[simp] theorem State.withdrawBeacon_timer : (s.withdrawBeacon).timer = s.timer := rfl
@[simp] theorem State.withdrawBeacon_ctl : (s.withdrawBeacon).ctl = s.ctl := rfl
@[simp] theorem State.withdrawBeacon_catchUp : (s.withdrawBeacon).catchUp = s.catchUp := rfl
@[simp] theorem State.withdrawBeacon_bus :
    (s.withdrawBeacon).bus = { s.bus.withdraw .beacon with beacon := none, renewal := false } := rfl
@[simp] theorem State.withdrawBeacon_pixel : (s.withdrawBeacon).pixel = s.pixel := rfl
@[simp] theorem State.withdrawBeacon_cfg : (s.withdrawBeacon).cfg = s.cfg := rfl
@[simp] theorem State.withdrawBeacon_port : (s.withdrawBeacon).port = s.port := rfl
@[simp] theorem State.withdrawBeacon_events : (s.withdrawBeacon).events = s.events := rfl
@[simp] theorem State.withdrawBeacon_pending : (s.withdrawBeacon).pending = s.pending := rfl
@[simp] theorem State.withdrawBeacon_freeCount : (s.withdrawBeacon).freeCount = s.freeCount := rfl

/-! ### clearValid -/

@[simp] theorem State.clearValid_wall : (s.clearValid).wall = { s.wall with valid := false } := rfl
@[simp] theorem State.clearValid_edit : (s.clearValid).edit = s.edit := rfl
@[simp] theorem State.clearValid_peers : (s.clearValid).peers = s.peers := rfl
@[simp] theorem State.clearValid_timer : (s.clearValid).timer = s.timer := rfl
@[simp] theorem State.clearValid_ctl : (s.clearValid).ctl = s.ctl := rfl
@[simp] theorem State.clearValid_catchUp : (s.clearValid).catchUp = s.catchUp := rfl
@[simp] theorem State.clearValid_bus : (s.clearValid).bus = s.bus := rfl
@[simp] theorem State.clearValid_pixel :
    (s.clearValid).pixel = { s.pixel with latched := { s.pixel.latched with showing := false }, rgb := Colour.black } := rfl
@[simp] theorem State.clearValid_cfg : (s.clearValid).cfg = s.cfg := rfl
@[simp] theorem State.clearValid_port : (s.clearValid).port = s.port := rfl
@[simp] theorem State.clearValid_events : (s.clearValid).events = s.events := rfl
@[simp] theorem State.clearValid_pending : (s.clearValid).pending = s.pending := rfl
@[simp] theorem State.clearValid_freeCount : (s.clearValid).freeCount = s.freeCount := rfl

/-! ### show -/

@[simp] theorem State.show_wall (c : Colour) : (s.show c).wall = s.wall := rfl
@[simp] theorem State.show_edit (c : Colour) : (s.show c).edit = s.edit := rfl
@[simp] theorem State.show_peers (c : Colour) : (s.show c).peers = s.peers := rfl
@[simp] theorem State.show_timer (c : Colour) : (s.show c).timer = s.timer := rfl
@[simp] theorem State.show_ctl (c : Colour) : (s.show c).ctl = s.ctl := rfl
@[simp] theorem State.show_catchUp (c : Colour) : (s.show c).catchUp = s.catchUp := rfl
@[simp] theorem State.show_bus (c : Colour) : (s.show c).bus = s.bus := rfl
@[simp] theorem State.show_pixel (c : Colour) : (s.show c).pixel = { s.pixel with rgb := c } := rfl
@[simp] theorem State.show_cfg (c : Colour) : (s.show c).cfg = s.cfg := rfl
@[simp] theorem State.show_port (c : Colour) : (s.show c).port = s.port := rfl
@[simp] theorem State.show_events (c : Colour) : (s.show c).events = s.events := rfl
@[simp] theorem State.show_pending (c : Colour) : (s.show c).pending = s.pending := rfl
@[simp] theorem State.show_freeCount (c : Colour) : (s.show c).freeCount = s.freeCount := rfl

/-! ### scanTo -/

@[simp] theorem State.scanTo_wall (l x : Nat) : (s.scanTo l x).wall = s.wall := rfl
@[simp] theorem State.scanTo_edit (l x : Nat) : (s.scanTo l x).edit = s.edit := rfl
@[simp] theorem State.scanTo_peers (l x : Nat) : (s.scanTo l x).peers = s.peers := rfl
@[simp] theorem State.scanTo_timer (l x : Nat) : (s.scanTo l x).timer = { s.timer with line := l, pixel := x } := rfl
@[simp] theorem State.scanTo_ctl (l x : Nat) : (s.scanTo l x).ctl = s.ctl := rfl
@[simp] theorem State.scanTo_catchUp (l x : Nat) : (s.scanTo l x).catchUp = s.catchUp := rfl
@[simp] theorem State.scanTo_bus (l x : Nat) : (s.scanTo l x).bus = s.bus := rfl
@[simp] theorem State.scanTo_pixel (l x : Nat) :
    (s.scanTo l x).pixel = s.pixel.atPosition (s.timer.line = l ∧ s.timer.pixel = x) := rfl
@[simp] theorem State.scanTo_cfg (l x : Nat) : (s.scanTo l x).cfg = s.cfg := rfl
@[simp] theorem State.scanTo_port (l x : Nat) : (s.scanTo l x).port = s.port := rfl
@[simp] theorem State.scanTo_events (l x : Nat) : (s.scanTo l x).events = s.events := rfl
@[simp] theorem State.scanTo_pending (l x : Nat) : (s.scanTo l x).pending = s.pending := rfl
@[simp] theorem State.scanTo_freeCount (l x : Nat) : (s.scanTo l x).freeCount = s.freeCount := rfl

/-! ### latchFrame -/

@[simp] theorem State.latchFrame_wall : (s.latchFrame).wall = s.wall := rfl
@[simp] theorem State.latchFrame_edit : (s.latchFrame).edit = s.edit := rfl
@[simp] theorem State.latchFrame_peers : (s.latchFrame).peers = s.peers := rfl
@[simp] theorem State.latchFrame_timer : (s.latchFrame).timer = s.timer := rfl
@[simp] theorem State.latchFrame_ctl : (s.latchFrame).ctl = s.ctl := rfl
@[simp] theorem State.latchFrame_catchUp : (s.latchFrame).catchUp = s.catchUp := rfl
@[simp] theorem State.latchFrame_bus : (s.latchFrame).bus = s.bus := rfl
@[simp] theorem State.latchFrame_pixel :
    (s.latchFrame).pixel = ({ s.pixel.atPosition false with latched := s.latch, underrun := false }).reissue s.cfg.w := rfl
@[simp] theorem State.latchFrame_cfg : (s.latchFrame).cfg = s.cfg := rfl
@[simp] theorem State.latchFrame_port : (s.latchFrame).port = s.port := rfl
@[simp] theorem State.latchFrame_events : (s.latchFrame).events = s.events := rfl
@[simp] theorem State.latchFrame_pending : (s.latchFrame).pending = s.pending := rfl
@[simp] theorem State.latchFrame_freeCount : (s.latchFrame).freeCount = s.freeCount := rfl

/-! ### respond -/

@[simp] theorem State.respond_wall (ph : PortPhase) (r : Response) : (s.respond ph r).wall = s.wall := rfl
@[simp] theorem State.respond_edit (ph : PortPhase) (r : Response) : (s.respond ph r).edit = s.edit := rfl
@[simp] theorem State.respond_peers (ph : PortPhase) (r : Response) : (s.respond ph r).peers = s.peers := rfl
@[simp] theorem State.respond_timer (ph : PortPhase) (r : Response) : (s.respond ph r).timer = s.timer := rfl
@[simp] theorem State.respond_ctl (ph : PortPhase) (r : Response) : (s.respond ph r).ctl = s.ctl := rfl
@[simp] theorem State.respond_catchUp (ph : PortPhase) (r : Response) : (s.respond ph r).catchUp = s.catchUp := rfl
@[simp] theorem State.respond_bus (ph : PortPhase) (r : Response) : (s.respond ph r).bus = s.bus := rfl
@[simp] theorem State.respond_pixel (ph : PortPhase) (r : Response) : (s.respond ph r).pixel = s.pixel := rfl
@[simp] theorem State.respond_cfg (ph : PortPhase) (r : Response) : (s.respond ph r).cfg = s.cfg := rfl
@[simp] theorem State.respond_port (ph : PortPhase) (r : Response) :
    (s.respond ph r).port = ⟨ph.afterCompletion, some r⟩ := rfl
@[simp] theorem State.respond_events (ph : PortPhase) (r : Response) : (s.respond ph r).events = s.events := rfl
@[simp] theorem State.respond_pending (ph : PortPhase) (r : Response) : (s.respond ph r).pending = s.pending := rfl
@[simp] theorem State.respond_freeCount (ph : PortPhase) (r : Response) :
    (s.respond ph r).freeCount = s.freeCount := rfl

/-! ### deselect -/

@[simp] theorem State.deselect_wall : (s.deselect).wall = s.wall := rfl
@[simp] theorem State.deselect_edit : (s.deselect).edit = s.edit := rfl
@[simp] theorem State.deselect_peers : (s.deselect).peers = s.peers := rfl
@[simp] theorem State.deselect_timer : (s.deselect).timer = s.timer := rfl
@[simp] theorem State.deselect_ctl : (s.deselect).ctl = s.ctl := rfl
@[simp] theorem State.deselect_catchUp : (s.deselect).catchUp = s.catchUp := rfl
@[simp] theorem State.deselect_bus : (s.deselect).bus = s.bus := rfl
@[simp] theorem State.deselect_pixel : (s.deselect).pixel = s.pixel := rfl
@[simp] theorem State.deselect_cfg : (s.deselect).cfg = s.cfg := rfl
@[simp] theorem State.deselect_port : (s.deselect).port = { s.port with phase := .idle } := rfl
@[simp] theorem State.deselect_events : (s.deselect).events = s.events := rfl
@[simp] theorem State.deselect_pending : (s.deselect).pending = s.pending := rfl
@[simp] theorem State.deselect_freeCount : (s.deselect).freeCount = s.freeCount := rfl

/-! ### goodReception -/

@[simp] theorem State.goodReception_wall : (s.goodReception).wall = s.wall := rfl
@[simp] theorem State.goodReception_edit : (s.goodReception).edit = s.edit := rfl
@[simp] theorem State.goodReception_peers : (s.goodReception).peers = s.peers := rfl
@[simp] theorem State.goodReception_timer : (s.goodReception).timer = s.timer := rfl
@[simp] theorem State.goodReception_ctl : (s.goodReception).ctl = s.ctl := rfl
@[simp] theorem State.goodReception_catchUp : (s.goodReception).catchUp = s.catchUp := rfl
@[simp] theorem State.goodReception_bus :
    (s.goodReception).bus = { s.bus with attempt := none, corruptStreak := 0, driven := .acknowledgment } := rfl
@[simp] theorem State.goodReception_pixel : (s.goodReception).pixel = s.pixel := rfl
@[simp] theorem State.goodReception_cfg : (s.goodReception).cfg = s.cfg := rfl
@[simp] theorem State.goodReception_port : (s.goodReception).port = s.port := rfl
@[simp] theorem State.goodReception_events : (s.goodReception).events = s.events := rfl
@[simp] theorem State.goodReception_pending : (s.goodReception).pending = s.pending := rfl
@[simp] theorem State.goodReception_freeCount : (s.goodReception).freeCount = s.freeCount := rfl

/-! ### endAttempt -/

@[simp] theorem State.endAttempt_wall (d : WindowDrive) : (s.endAttempt d).wall = s.wall := rfl
@[simp] theorem State.endAttempt_edit (d : WindowDrive) : (s.endAttempt d).edit = s.edit := rfl
@[simp] theorem State.endAttempt_peers (d : WindowDrive) : (s.endAttempt d).peers = s.peers := rfl
@[simp] theorem State.endAttempt_timer (d : WindowDrive) : (s.endAttempt d).timer = s.timer := rfl
@[simp] theorem State.endAttempt_ctl (d : WindowDrive) : (s.endAttempt d).ctl = s.ctl := rfl
@[simp] theorem State.endAttempt_catchUp (d : WindowDrive) : (s.endAttempt d).catchUp = s.catchUp := rfl
@[simp] theorem State.endAttempt_bus (d : WindowDrive) :
    (s.endAttempt d).bus = { s.bus with attempt := none, driven := d } := rfl
@[simp] theorem State.endAttempt_pixel (d : WindowDrive) : (s.endAttempt d).pixel = s.pixel := rfl
@[simp] theorem State.endAttempt_cfg (d : WindowDrive) : (s.endAttempt d).cfg = s.cfg := rfl
@[simp] theorem State.endAttempt_port (d : WindowDrive) : (s.endAttempt d).port = s.port := rfl
@[simp] theorem State.endAttempt_events (d : WindowDrive) : (s.endAttempt d).events = s.events := rfl
@[simp] theorem State.endAttempt_pending (d : WindowDrive) : (s.endAttempt d).pending = s.pending := rfl
@[simp] theorem State.endAttempt_freeCount (d : WindowDrive) : (s.endAttempt d).freeCount = s.freeCount := rfl

/-! ### beginReception -/

@[simp] theorem State.beginReception_wall : (s.beginReception).wall = s.wall := rfl
@[simp] theorem State.beginReception_edit : (s.beginReception).edit = s.edit := rfl
@[simp] theorem State.beginReception_peers : (s.beginReception).peers = s.peers := rfl
@[simp] theorem State.beginReception_timer : (s.beginReception).timer = s.timer := rfl
@[simp] theorem State.beginReception_ctl : (s.beginReception).ctl = s.ctl := rfl
@[simp] theorem State.beginReception_catchUp : (s.beginReception).catchUp = s.catchUp := rfl
@[simp] theorem State.beginReception_bus :
    (s.beginReception).bus = { s.bus with attempt := some (.receiving s.time true), gapSeen := true, driven := .nothing } := rfl
@[simp] theorem State.beginReception_pixel : (s.beginReception).pixel = s.pixel := rfl
@[simp] theorem State.beginReception_cfg : (s.beginReception).cfg = s.cfg := rfl
@[simp] theorem State.beginReception_port : (s.beginReception).port = s.port := rfl
@[simp] theorem State.beginReception_events : (s.beginReception).events = s.events := rfl
@[simp] theorem State.beginReception_pending : (s.beginReception).pending = s.pending := rfl
@[simp] theorem State.beginReception_freeCount : (s.beginReception).freeCount = s.freeCount := rfl

/-! ### endRefusal -/

@[simp] theorem State.endRefusal_wall : (s.endRefusal).wall = s.wall := rfl
@[simp] theorem State.endRefusal_edit : (s.endRefusal).edit = { s.edit with refusals := s.edit.refusals.tail } := rfl
@[simp] theorem State.endRefusal_peers : (s.endRefusal).peers = s.peers := rfl
@[simp] theorem State.endRefusal_timer : (s.endRefusal).timer = s.timer := rfl
@[simp] theorem State.endRefusal_ctl : (s.endRefusal).ctl = s.ctl := rfl
@[simp] theorem State.endRefusal_catchUp : (s.endRefusal).catchUp = s.catchUp := rfl
@[simp] theorem State.endRefusal_bus : (s.endRefusal).bus = s.bus := rfl
@[simp] theorem State.endRefusal_pixel : (s.endRefusal).pixel = s.pixel := rfl
@[simp] theorem State.endRefusal_cfg : (s.endRefusal).cfg = s.cfg := rfl
@[simp] theorem State.endRefusal_port : (s.endRefusal).port = s.port := rfl
@[simp] theorem State.endRefusal_events : (s.endRefusal).events = s.events := rfl
@[simp] theorem State.endRefusal_pending : (s.endRefusal).pending = s.pending := rfl
@[simp] theorem State.endRefusal_freeCount : (s.endRefusal).freeCount = s.freeCount := rfl

/-! ### atPosition -/

@[simp] theorem PixelPath.atPosition_bufferA (p : PixelPath) (b : Bool) : (p.atPosition b).bufferA = p.bufferA := rfl
@[simp] theorem PixelPath.atPosition_bufferB (p : PixelPath) (b : Bool) : (p.atPosition b).bufferB = p.bufferB := rfl
@[simp] theorem PixelPath.atPosition_fetch (p : PixelPath) (b : Bool) : (p.atPosition b).fetch = p.fetch := rfl
@[simp] theorem PixelPath.atPosition_queued (p : PixelPath) (b : Bool) : (p.atPosition b).queued = p.queued := rfl
@[simp] theorem PixelPath.atPosition_latched (p : PixelPath) (b : Bool) : (p.atPosition b).latched = p.latched := rfl
@[simp] theorem PixelPath.atPosition_underrun (p : PixelPath) (b : Bool) : (p.atPosition b).underrun = p.underrun := rfl
@[simp] theorem PixelPath.atPosition_givenUp (p : PixelPath) (b : Bool) : (p.atPosition b).givenUp = p.givenUp := rfl
@[simp] theorem PixelPath.atPosition_request (p : PixelPath) (b : Bool) : (p.atPosition b).request = p.request := rfl
@[simp] theorem PixelPath.atPosition_rgb (p : PixelPath) (b : Bool) :
    (p.atPosition b).rgb = if b then p.rgb else Colour.black := rfl
@[simp] theorem PixelPath.atPosition_issuedHere (p : PixelPath) (b : Bool) :
    (p.atPosition b).issuedHere = (b && p.issuedHere) := rfl
@[simp] theorem PixelPath.atPosition_requestedHere (p : PixelPath) (b : Bool) :
    (p.atPosition b).requestedHere = (b && p.requestedHere) := rfl
@[simp] theorem PixelPath.atPosition_scannedHere (p : PixelPath) (b : Bool) :
    (p.atPosition b).scannedHere = (b && p.scannedHere) := rfl
@[simp] theorem PixelPath.atPosition_true (p : PixelPath) : p.atPosition true = p := rfl

end Sys2Proof.Machine
end

