-- ==== Sys2Proof/Laws/Ops.lean ====
section
/-! SUPPORT. What each shared operation over the event queue, the edit table, the outcome list and the Peer Table does, said
once, for proofs to cite in place of unfolding it. -/

namespace Sys2Proof.Machine

open Sys2Proof

/-! ### The event queue -/

theorem joinQueue_of_lt {q : List Event} (e : Event) (h : q.length < 32) : joinQueue q e = q ++ [e] := by
  simp [joinQueue, h]

@[simp] theorem markTail_length (q : List Event) : (markTail q).length = q.length := by
  induction q with
  | nil => rfl
  | cons a q ih => cases q <;> simp_all [markTail]

theorem markTail_append (q : List Event) (e : Event) : markTail (q ++ [e]) = q ++ [{ e with overrun := true }] := by
  induction q with
  | nil => rfl
  | cons a q ih => cases q <;> simp_all [markTail]

theorem joinQueue_full {q : List Event} (last e : Event) (h : (q ++ [last]).length = 32) :
    joinQueue (q ++ [last]) e = q ++ [{ last with overrun := true }] := by
  rw [joinQueue, if_neg (by omega), markTail_append]

theorem joinQueue_length_le {q : List Event} (e : Event) (h : q.length ≤ 32) : (joinQueue q e).length ≤ 32 := by
  unfold joinQueue
  split
  · simp; omega
  · simpa using h

theorem post_events_length_le {s : State} (h : s.events.length ≤ 32) (k : EventKind) (st : Option Station)
    (id : Option EditId) (r : Option Reason) (ro : Option Role) : (s.post k st id r ro).events.length ≤ 32 :=
  joinQueue_length_le _ h

/-! ### Withdrawal -/

@[simp] theorem Bus.withdraw_of_attempt_none {b : Bus} (src : Source) (h : b.attempt = none) : b.withdraw src = b := by
  simp [Bus.withdraw, h]

/-- A withdrawal changes the attempt alone. -/
theorem Bus.withdraw_eq (b : Bus) (src : Source) : b.withdraw src = { b with attempt := (b.withdraw src).attempt } := by
  unfold Bus.withdraw
  split
  · split <;> rfl
  · rfl

theorem Bus.withdraw_attempt_isSome (b : Bus) (src : Source) :
    (b.withdraw src).attempt.isSome = b.attempt.isSome := by
  unfold Bus.withdraw
  split
  · split <;> simp_all
  · rfl

/-! ### The edit table -/

theorem State.entryAt_eq_of_edit_eq {s t : State} (h : t.edit = s.edit) (i : Nat) : t.entryAt i = s.entryAt i := by
  simp [State.entryAt, h]

theorem State.entryAt_eq_of_table_eq {s t : State} (h : t.edit.table = s.edit.table) (i : Nat) :
    t.entryAt i = s.entryAt i := by
  simp [State.entryAt, h]

theorem State.entryAt_lt {s : State} {i : Nat} {e : EditEntry} (h : s.entryAt i = some e) : i < 16 := by
  by_contra hi
  rw [State.entryAt, Vector.getElem?_eq_none (by omega)] at h
  simp at h

theorem State.entryAt_of_le {s : State} {i : Nat} (h : 16 ≤ i) : s.entryAt i = none := by
  rw [State.entryAt, Vector.getElem?_eq_none (by omega)]
  rfl

theorem setIfInBounds_entry (v : Vector (Option EditEntry) 16) (i j : Nat) (e : Option EditEntry) :
    ((v.setIfInBounds i e)[j]?).join = if i = j ∧ i < 16 then e else (v[j]?).join := by
  rw [Vector.getElem?_setIfInBounds]
  by_cases h : i = j
  · subst h
    by_cases hi : i < 16
    · simp [hi]
    · simp [hi]
  · simp [h]

/-- Writing one index leaves the others. -/
theorem State.entryAt_putEntry (s : State) (i j : Nat) (e : Option EditEntry) :
    (s.putEntry i e).entryAt j = if i = j ∧ i < 16 then e else s.entryAt j :=
  setIfInBounds_entry _ _ _ _

theorem State.entryAt_enter (s : State) (i j : Nat) (e : EditEntry) (k : Option MsgKind) :
    (s.enter i e k).entryAt j
      = if i = j ∧ i < 16 then some { e with owed := k.map fun k => ⟨k, 0⟩ } else s.entryAt j :=
  setIfInBounds_entry _ _ _ _

theorem State.entryAt_removeEntry (s : State) (i j : Nat) :
    (s.removeEntry i).entryAt j = if i = j ∧ i < 16 then none else s.entryAt j :=
  setIfInBounds_entry _ _ _ _

theorem State.entryAt_dropEntry (s : State) (i j : Nat) (e : EditEntry) (r : Reason) (st : Option Station) :
    (s.dropEntry i e r st).entryAt j = if i = j ∧ i < 16 then none else s.entryAt j :=
  setIfInBounds_entry _ _ _ _

theorem State.mem_entries {s : State} {i : Nat} {e : EditEntry} : (i, e) ∈ s.entries ↔ s.entryAt i = some e := by
  constructor
  · intro h
    obtain ⟨j, _, hj⟩ := List.mem_filterMap.1 h
    cases hx : s.entryAt j with
    | none => simp [hx] at hj
    | some x =>
      simp only [hx, Option.map_some, Option.some.injEq, Prod.mk.injEq] at hj
      obtain ⟨rfl, rfl⟩ := hj
      exact hx
  · intro h
    exact List.mem_filterMap.2 ⟨i, List.mem_range.2 (State.entryAt_lt h), by simp [h]⟩

theorem State.findEntry_some {s : State} {id : EditId} {i : Nat} {e : EditEntry} (h : s.findEntry id = some (i, e)) :
    s.entryAt i = some e ∧ e.id = id := by
  have h1 := List.find?_some h
  have h2 := List.mem_of_find?_eq_some h
  exact ⟨State.mem_entries.1 h2, by simpa using h1⟩

theorem State.findEntry_none {s : State} {id : EditId} :
    s.findEntry id = none ↔ ∀ i e, s.entryAt i = some e → e.id ≠ id := by
  simp only [State.findEntry, List.find?_eq_none, Prod.forall, State.mem_entries, decide_eq_true_eq]

theorem State.conflictHeld_eq_true {s : State} {t : Target} :
    s.conflictHeld t = true ↔ ∃ i e, s.entryAt i = some e ∧ e.target.conflicts t = true := by
  simp only [State.conflictHeld, List.any_eq_true, Prod.exists, State.mem_entries]

theorem State.freeIndex_some {s : State} {i : Nat} (h : s.freeIndex = some i) :
    i < 16 ∧ s.entryAt i = none ∧ ∀ j, j < i → (s.entryAt j).isSome = true := by
  have h1 := List.find?_some h
  have h2 := List.mem_of_find?_eq_some h
  refine ⟨List.mem_range.1 h2, by simpa using h1, fun j hj => ?_⟩
  obtain ⟨_, as, bs, hl, hb⟩ := List.find?_eq_some_iff_append.1 h
  have hi : as.length = i := by
    have := congrArg (fun l => l[as.length]?) hl
    have hlen : as.length < 16 := by
      have := congrArg List.length hl
      simp at this
      omega
    simp [hlen] at this
    exact this
  have hj' : as[j]? = some j := by
    have := congrArg (fun l => l[j]?) hl
    have h16 : j < 16 := by have := List.mem_range.1 h2; omega
    simp only [List.getElem?_range h16] at this
    rw [List.getElem?_append_left (by omega)] at this
    exact this.symm
  have := hb j (List.mem_of_getElem? hj')
  cases hx : s.entryAt j <;> simp_all

theorem filterMap_length_eq_iff {α β : Type} (f : α → Option β) (xs : List α) :
    (xs.filterMap f).length = xs.length ↔ ∀ x ∈ xs, (f x).isSome = true := by
  induction xs with
  | nil => simp
  | cons x xs ih =>
    cases hx : f x with
    | none =>
      have := List.length_filterMap_le f xs
      simp [hx]
      omega
    | some y => simp [hx, ih]

/-- The edit table has an empty index exactly when it holds fewer than 16 entries. -/
theorem State.freeIndex_isSome {s : State} : s.freeIndex.isSome = true ↔ s.entries.length < 16 := by
  have hle : s.entries.length ≤ 16 := by
    have := List.length_filterMap_le (fun i => (s.entryAt i).map fun e => (i, e)) (List.range 16)
    simpa [State.entries] using this
  have hiff := filterMap_length_eq_iff (fun i => (s.entryAt i).map fun e => (i, e)) (List.range 16)
  rw [List.length_range] at hiff
  constructor
  · intro h
    obtain ⟨i, hi⟩ := Option.isSome_iff_exists.1 h
    obtain ⟨h16, hn, _⟩ := State.freeIndex_some hi
    by_contra hc
    have heq : s.entries.length = 16 := by omega
    have := hiff.1 heq i (List.mem_range.2 h16)
    simp [hn] at this
  · intro h
    by_contra hc
    have hnone : s.freeIndex = none := by simpa using hc
    have hall := List.find?_eq_none.1 hnone
    have : s.entries.length = 16 := hiff.2 fun i hi => by
      have := hall i hi
      cases hx : s.entryAt i <;> simp_all
    omega

/-- Work on each entry keeps a property that every single piece of it keeps. -/
theorem State.forEntries_induction {P : State → Prop} {f : Nat → EditEntry → State → State} {s : State} (h0 : P s)
    (hf : ∀ i e t, P t → t.entryAt i = some e → P (f i e t)) : P (s.forEntries f) := by
  unfold State.forEntries
  generalize List.range 16 = xs
  induction xs generalizing s with
  | nil => exact h0
  | cons i xs ih =>
    simp only [List.foldl_cons]
    apply ih
    cases hx : s.entryAt i with
    | none => exact h0
    | some e => exact hf i e s h0 hx

/-- Work on each entry that touches its own index alone leaves at an index what the piece for its entry left there. -/
theorem State.entryAt_forEntries {P : State → Prop} {f : Nat → EditEntry → State → State} {s : State} {k : Nat}
    {e : EditEntry} (h0 : P s) (hf : ∀ i e t, i ≠ k → P t → P (f i e t))
    (hlocal : ∀ i e t j, j ≠ i → (f i e t).entryAt j = t.entryAt j) (hk : s.entryAt k = some e) :
    ∃ t, P t ∧ t.entryAt k = some e ∧ (s.forEntries f).entryAt k = (f k e t).entryAt k := by
  unfold State.forEntries
  have hnd : (List.range 16).Nodup := List.nodup_range
  have hmem : k ∈ List.range 16 := List.mem_range.2 (State.entryAt_lt hk)
  revert hnd hmem
  generalize List.range 16 = xs
  have after : ∀ (xs : List Nat) (u : State), k ∉ xs →
      (xs.foldl (fun s i => match s.entryAt i with | some e => f i e s | none => s) u).entryAt k = u.entryAt k := by
    intro xs
    induction xs with
    | nil => intro u _; rfl
    | cons i xs ih =>
      intro u hni
      simp only [List.mem_cons, not_or] at hni
      simp only [List.foldl_cons]
      rw [ih _ hni.2]
      cases hx : u.entryAt i with
      | none => rfl
      | some a => exact hlocal i a u k hni.1
  induction xs generalizing s with
  | nil => intro _ h; simp at h
  | cons i xs ih =>
    intro hnd hmem
    simp only [List.foldl_cons]
    by_cases hik : k = i
    · subst hik
      refine ⟨s, h0, hk, ?_⟩
      refine (after xs _ (List.nodup_cons.1 hnd).1).trans ?_
      simp only [hk]
    · have hmem' : k ∈ xs := by simpa [hik] using hmem
      cases hx : s.entryAt i with
      | none => exact ih h0 hk (List.nodup_cons.1 hnd).2 hmem'
      | some a => exact ih (hf i a s (Ne.symm hik) h0) (by rw [hlocal i a s k hik]; exact hk) (List.nodup_cons.1 hnd).2 hmem'

/-- Work on each entry that touches its own index alone and posts one event for the entries that satisfy a test posts those events
in index order. -/
theorem State.events_forEntries {f : Nat → EditEntry → State → State} {s : State} (test : EditEntry → Bool)
    (event : FrameNo → EditEntry → Event) (hframe : ∀ i e t, (f i e t).timer.frame = t.timer.frame)
    (hlocal : ∀ i e t j, j ≠ i → (f i e t).entryAt j = t.entryAt j)
    (hevents : ∀ i e t, (f i e t).events = if test e then joinQueue t.events (event t.timer.frame e) else t.events) :
    (s.forEntries f).events = (s.entries.filter fun x => test x.2).foldl
      (fun q x => joinQueue q (event s.timer.frame x.2)) s.events := by
  unfold State.forEntries State.entries
  have hnd : (List.range 16).Nodup := List.nodup_range
  revert hnd
  generalize List.range 16 = xs
  induction xs generalizing s with
  | nil => intro _; rfl
  | cons i xs ih =>
    intro hnd
    obtain ⟨hni, hnd⟩ := List.nodup_cons.1 hnd
    rw [List.foldl_cons, List.filterMap_cons]
    cases hx : s.entryAt i with
    | none => exact ih hnd
    | some a =>
      have hrest : (xs.filterMap fun j => ((f i a s).entryAt j).map fun e => (j, e))
          = xs.filterMap fun j => (s.entryAt j).map fun e => (j, e) :=
        List.filterMap_congr fun j hj => by rw [hlocal i a s j fun h => hni (h ▸ hj)]
      have hstep := ih (s := f i a s) hnd
      rw [hrest, hframe, hevents] at hstep
      by_cases ht : test a = true
      · simpa [ht] using hstep
      · simpa [ht] using hstep

/-! ### The refusal and outcome lists -/

/-- A refusal changes the refusal list alone, by at most one entry at the tail. -/
theorem State.refuse_eq (s : State) (id : EditId) (r : Reason) :
    s.refuse id r = s ∨ (s.edit.refusals.length < 4 ∧
      s.refuse id r = { s with edit := { s.edit with refusals := s.edit.refusals ++ [⟨id, r, 0⟩] } }) := by
  unfold State.refuse
  split
  · exact Or.inr ⟨by tauto, rfl⟩
  · exact Or.inl rfl

theorem State.refuse_entryAt (s : State) (id : EditId) (r : Reason) (i : Nat) :
    (s.refuse id r).entryAt i = s.entryAt i := by
  rcases s.refuse_eq id r with h | ⟨_, h⟩
  · rw [h]
  · rw [h]; rfl

theorem joinOutcomes_length_le (q : List OutcomeEntry) (o : OutcomeEntry) : (joinOutcomes q o).length ≤ 8 := by
  simp only [joinOutcomes, List.length_drop]
  omega

theorem withdrawAll_eq (xs : List OutcomeEntry) (s : State) :
    ∃ b, xs.foldl (fun s x => s.withdraw (.outcome x.id)) s = { s with bus := { s.bus with attempt := b } } := by
  induction xs generalizing s with
  | nil => exact ⟨s.bus.attempt, rfl⟩
  | cons x xs ih =>
    obtain ⟨b, hb⟩ := ih (s.withdraw (.outcome x.id))
    refine ⟨b, ?_⟩
    rw [List.foldl_cons]
    refine hb.trans ?_
    simp only [State.withdraw]
    rw [Bus.withdraw_eq]

/-- Recording an outcome changes the outcome list and, at most, the mark of the attempt in flight. -/
theorem State.recordOutcome_eq (s : State) (o : OutcomeEntry) :
    ∃ b, s.recordOutcome o
      = { s with edit := { s.edit with outcomes := joinOutcomes s.edit.outcomes o }, bus := { s.bus with attempt := b } } :=
  withdrawAll_eq _ _

theorem withdrawAll_of_none (xs : List OutcomeEntry) (s : State) (h : s.bus.attempt = none) :
    xs.foldl (fun s x => s.withdraw (.outcome x.id)) s = s := by
  induction xs with
  | nil => rfl
  | cons x xs ih =>
    simp only [List.foldl_cons]
    rw [show s.withdraw (.outcome x.id) = s by simp [State.withdraw, h]]
    exact ih

/-- With no attempt in flight, recording an outcome changes the outcome list alone. -/
theorem State.recordOutcome_of_none (s : State) (o : OutcomeEntry) (h : s.bus.attempt = none) :
    s.recordOutcome o = { s with edit := { s.edit with outcomes := joinOutcomes s.edit.outcomes o } } :=
  withdrawAll_of_none _ _ h

theorem State.recordOutcome_entryAt (s : State) (o : OutcomeEntry) (i : Nat) :
    (s.recordOutcome o).entryAt i = s.entryAt i := by
  obtain ⟨b, h⟩ := s.recordOutcome_eq o
  rw [h]
  rfl

/-! ### The missed flag -/

/-- The missed flag is all that noting a missed edit can change. -/
theorem State.noteMissed_eq (s : State) :
    s.noteMissed = { s with catchUp := { s.catchUp with
      req := { s.catchUp.req with missed := s.catchUp.req.missed || s.catchingUp } } } := by
  unfold State.noteMissed
  split
  · next h => simp [h]
  · next h => simp [h]

/-! ### The Peer Table -/

theorem State.peerAt_of_ne {s : State} {n : Nat} (h : n ≠ s.cfg.station.toNat) : s.peerAt n = s.peers[n]? := by
  simp [State.peerAt, State.own, h]

theorem State.putPeer_of_ne {s : State} {n : Nat} (p : Peer) (h : n ≠ s.cfg.station.toNat) :
    s.putPeer n p = { s with peers := s.peers.setIfInBounds n p } := by
  simp [State.putPeer, State.own, h]

/-- Writing an entry of the Peer Table changes the Peer Table alone. -/
theorem State.putPeer_eq (s : State) (n : Nat) (p : Peer) : ∃ v, s.putPeer n p = { s with peers := v } := by
  unfold State.putPeer
  split
  · exact ⟨s.peers, rfl⟩
  · exact ⟨_, rfl⟩

theorem State.peerAt_lt {s : State} {n : Nat} {p : Peer} (h : s.peerAt n = some p) :
    n < 32 ∧ n ≠ s.cfg.station.toNat ∧ s.peers[n]? = some p := by
  unfold State.peerAt at h
  split at h
  · simp at h
  · next hne =>
    refine ⟨?_, hne, h⟩
    by_contra hn
    rw [Vector.getElem?_eq_none (by omega)] at h
    simp at h

theorem State.mem_peerList {s : State} {n : Nat} {p : Peer} : (n, p) ∈ s.peerList ↔ s.peerAt n = some p := by
  constructor
  · intro h
    obtain ⟨j, _, hj⟩ := List.mem_filterMap.1 h
    cases hx : s.peerAt j with
    | none => simp [hx] at hj
    | some x =>
      simp only [hx, Option.map_some, Option.some.injEq, Prod.mk.injEq] at hj
      obtain ⟨rfl, rfl⟩ := hj
      exact hx
  · intro h
    exact List.mem_filterMap.2 ⟨n, List.mem_range.2 (State.peerAt_lt h).1, by simp [h]⟩

/-- A property that every update of one entry keeps, and that no loss breaks, the miss count keeps. -/
theorem State.missCount_induction {P : State → Prop} {s : State} (h0 : P s) (hf : ∀ n t, P t → P (t.missAt n)) :
    P s.missCount := by
  unfold State.missCount
  generalize List.range 32 = xs
  induction xs generalizing s with
  | nil => exact h0
  | cons n xs ih => exact ih (hf n s h0)

end Sys2Proof.Machine
end

