-- ==== Sys2Proof/Laws/Adopt.lean ====
section
/-! SUPPORT. What the choice of an adopt and the steering of a frame do (R95 to R98, R105, R109). -/

namespace Sys2Proof.Machine

open Sys2Proof

/-- One more record at the end of the list. -/
theorem aheadByMost_concat (p : Nat) (xs : List (Nat × Offset)) (x : Nat × Offset) :
    aheadByMost p (xs ++ [x]) = (match aheadByMost p xs with
      | none => some x
      | some y => if aheadOf p x.2 y.2 then some x else some y) := by
  unfold aheadByMost
  rw [List.foldl_append]
  rfl

/-- The record that none is ahead of, and that precedes those level with it, is the one ahead by most. -/
theorem aheadByMost_eq {p : Nat} {xs : List (Nat × Offset)} {x : Nat × Offset} (hs : xs.Pairwise fun a b => a.1 < b.1)
    (hx : x ∈ xs) (hb : ∀ y ∈ xs, aheadOf p y.2 x.2 = false)
    (ht : ∀ y ∈ xs, aheadOf p x.2 y.2 = false → x.1 ≤ y.1) : aheadByMost p xs = some x := by
  obtain ⟨as, bs, rfl⟩ := List.append_of_mem hx
  have hfirst : ∀ y ∈ as, aheadOf p x.2 y.2 = true := by
    intro y hy
    by_contra hc
    have h1 := ht y (by simp [hy]) (by simpa using hc)
    have h2 := (List.pairwise_append.1 hs).2.2 y hy x (by simp)
    omega
  have h1 : ∀ (ys : List (Nat × Offset)), aheadByMost p ys = none ∨ ∃ y ∈ ys, aheadByMost p ys = some y := by
    intro ys
    induction ys using List.reverseRecOn with
    | nil => exact Or.inl rfl
    | append_singleton ys y ih =>
      rw [aheadByMost_concat]
      rcases ih with h | ⟨z, hz, h⟩ <;> rw [h]
      · exact Or.inr ⟨y, by simp, rfl⟩
      · by_cases hy : aheadOf p y.2 z.2 = true
        · exact Or.inr ⟨y, by simp, if_pos hy⟩
        · exact Or.inr ⟨z, by simp [hz], if_neg hy⟩
  clear hx hs
  induction bs using List.reverseRecOn with
  | nil =>
    rw [aheadByMost_concat]
    rcases h1 as with h | ⟨y, hy, h⟩ <;> rw [h]
    exact if_pos (hfirst y hy)
  | append_singleton bs y ih =>
    rw [show as ++ x :: (bs ++ [y]) = (as ++ x :: bs) ++ [y] by simp, aheadByMost_concat,
      ih (fun z hz => hb z (by simp at hz ⊢; tauto)) (fun z hz => ht z (by simp at hz ⊢; tauto))]
    exact if_neg (by simp [hb y (by simp)])

/-- The fresh offsets of some entries. -/
theorem mem_freshOffsets {xs : List (Nat × Peer)} {n : Nat} {o : Offset} :
    (n, o) ∈ freshOffsets xs ↔ ∃ x, (n, x) ∈ xs ∧ x.offset = some o ∧ o.fresh = true := by
  unfold freshOffsets
  rw [List.mem_filterMap]
  constructor
  · rintro ⟨⟨m, x⟩, hx, h⟩
    dsimp only at h
    split at h
    · next o' ho =>
      split at h
      · next hf => cases h; exact ⟨x, hx, ho, hf⟩
      · cases h
    · cases h
  · rintro ⟨x, hx, ho, hf⟩
    exact ⟨(n, x), hx, by simp [ho, hf]⟩

/-- The Peer Table is listed by rising station number. -/
theorem State.peerList_sorted (s : State) : s.peerList.Pairwise fun a b => a.1 < b.1 := by
  unfold State.peerList
  rw [List.pairwise_filterMap]
  refine List.pairwise_lt_range.imp ?_
  intro a b hab x hx y hy
  simp only [Option.map_eq_some_iff] at hx hy
  obtain ⟨_, _, rfl⟩ := hx
  obtain ⟨_, _, rfl⟩ := hy
  exact hab

/-- So are the fresh offsets. -/
theorem freshOffsets_sorted {xs : List (Nat × Peer)} (h : xs.Pairwise fun a b => a.1 < b.1) :
    (freshOffsets xs).Pairwise fun a b => a.1 < b.1 := by
  unfold freshOffsets
  rw [List.pairwise_filterMap]
  refine h.imp ?_
  intro a b hab x hx y hy
  have key : ∀ (c : Nat × Peer) (z : Nat × Offset), (match c.2.offset with
    | some o => if o.fresh then some (c.1, o) else none
    | none => none) = some z → z.1 = c.1 := by
    intro c z h
    split at h
    · split at h
      · cases h; rfl
      · cases h
    · cases h
  rw [key a x hx, key b y hy]
  exact hab

/-- The fresh offsets of the LIVE entries of a kind. -/
theorem State.mem_freshOffsets_live {s : State} {f : Peer → Bool} {n : Nat} {o : Offset} :
    (n, o) ∈ freshOffsets (s.peerList.filter fun x => f x.2) ↔
      ∃ x, s.peerAt n = some x ∧ f x = true ∧ x.offset = some o ∧ o.fresh = true := by
  rw [mem_freshOffsets]
  constructor
  · rintro ⟨x, hx, h1, h2⟩
    exact ⟨x, State.mem_peerList.1 (List.mem_filter.1 hx).1, (List.mem_filter.1 hx).2, h1, h2⟩
  · rintro ⟨x, hx, h0, h1, h2⟩
    exact ⟨x, List.mem_filter.2 ⟨State.mem_peerList.2 hx, h0⟩, h1, h2⟩

/-- What the frame start in ALIGN, MEMBER or LEAVING does, from the state that the first step of R102 leaves. -/
theorem State.steerFrame_eq (s : State) :
    s.steerFrame =
      (let base := if s.contributors = [] then s else { s with timer := { s.timer with lock := s.timer.lock.engage } }
       let u := (base.setCorrection 0).useLiveOffsets
       match aheadByMost s.cfg.p ((freshOffsets s.contributors).filter fun x => x.2.candidate s.cfg.p) with
       | some x => (((u.decideAdopt x.2).post .renumbered (some (stationOf x.1))).loseLock .settling, some .renumber)
       | none =>
         let vs := (freshOffsets s.contributors).filterMap fun x => x.2.remaining s.cfg.p
         if s.contributors = [] then (u.loseLock .free, none)
         else if vs = [] then (u, none)
         else (u.steer (wallError vs), none)) := by
  by_cases hc : s.contributors = []
  · simp only [State.steerFrame, if_pos hc]
    rfl
  · simp only [State.steerFrame, if_neg hc]
    rfl

end Sys2Proof.Machine
end

