-- ==== Sys2Proof/Laws/FrameStart.lean ====
section
/-! SUPPORT. What a frame start and a pixel clock are made of: the orders of a frame start's work, and the principles by which a
property kept by every piece is kept by the whole. -/

namespace Sys2Proof

open Sys2Proof.Machine

/-- The default order is one the spec allows. -/
theorem FrameWork.allowed_all : FrameWork.allowed FrameWork.all = true := by decide

theorem FrameWork.effective_allowed (order : List FrameWork) : FrameWork.allowed (FrameWork.effective order) = true := by
  unfold FrameWork.effective
  split
  · assumption
  · exact FrameWork.allowed_all

theorem FrameWork.effective_of_allowed {order : List FrameWork} (h : FrameWork.allowed order = true) :
    FrameWork.effective order = order := by
  simp [FrameWork.effective, h]

theorem FrameWork.nodup_all : FrameWork.all.Nodup := by decide

theorem FrameWork.mem_all (w : FrameWork) : w ∈ FrameWork.all := by cases w <;> decide

/-- An allowed order holds every piece of work exactly once. -/
theorem FrameWork.perm_of_allowed {order : List FrameWork} (h : FrameWork.allowed order = true) :
    FrameWork.all.Perm order := by
  have hlen : order.length = FrameWork.all.length := by
    unfold FrameWork.allowed at h
    simp only [Bool.and_eq_true, decide_eq_true_eq] at h
    exact h.1.1.1.1.1.1.1
  have hall : ∀ w ∈ FrameWork.all, w ∈ order := by
    unfold FrameWork.allowed at h
    simp only [Bool.and_eq_true, List.all_eq_true, List.contains_iff_mem] at h
    exact h.1.1.1.1.1.1.2
  exact (List.subperm_of_subset FrameWork.nodup_all hall).perm_of_length_le (by omega)

theorem FrameWork.nodup_effective (order : List FrameWork) : (FrameWork.effective order).Nodup :=
  (FrameWork.perm_of_allowed (FrameWork.effective_allowed order)).nodup_iff.1 FrameWork.nodup_all

theorem FrameWork.mem_effective (order : List FrameWork) (w : FrameWork) : w ∈ FrameWork.effective order :=
  (FrameWork.perm_of_allowed (FrameWork.effective_allowed order)).mem_iff.1 (FrameWork.mem_all w)

end Sys2Proof

namespace Sys2Proof.Machine

open Sys2Proof

/-! ### A frame start -/

theorem FrameRun.foldl_work_induction {P : FrameRun → Prop} {x : FrameRun} (xs : List FrameWork) (h0 : P x)
    (hw : ∀ w y, P y → P (y.work w)) : P (xs.foldl FrameRun.work x) := by
  induction xs generalizing x with
  | nil => exact h0
  | cons w xs ih => exact ih (hw w x h0)

/-- A property of the run that the advance gives, every piece of work keeps and the latch keeps holds after a frame start. -/
theorem State.frameStart_induction {P : FrameRun → Prop} {s : State} (order : List FrameWork)
    (h0 : P (FrameRun.start s.advanceFrame)) (hw : ∀ w x, P x → P (x.work w))
    (hl : ∀ x, P x → P (x.update State.latchFrame)) : P (s.frameStart order) :=
  hl _ (FrameRun.foldl_work_induction _ h0 hw)

/-- The operations that a frame start's work is made of. -/
inductive FramePiece : (State → State) → Prop
  | timer : FramePiece fun s => s.timerWork.1
  | renumbered : FramePiece fun s => s.dropAll .renumbered
  | listenToAlign : FramePiece State.listenToAlign
  | renumberRole : FramePiece State.renumberRole
  | missCount : FramePiece State.missCount
  | verdicts : FramePiece State.verdictWork
  | promotion : FramePiece State.promotion
  | wait : FramePiece State.waitWork
  | dumpApply : FramePiece State.dumpApply
  | applications : FramePiece State.applications
  | ownDeadlines : FramePiece State.ownDeadlines
  | collectionDeadlines : FramePiece State.collectionDeadlines
  | queryWaits : FramePiece State.queryWaits
  | goInDoubt : FramePiece State.goInDoubt
  | observerExpiry : FramePiece State.observerExpiry
  | catchUpWaits : FramePiece State.catchUpWaits
  | beaconRenewal : FramePiece State.beaconRenewal

theorem FrameRun.wait_keeps {P : State → Prop} (hf : ∀ s, P s → P s.waitWork) {x : FrameRun} (h : P x.state) :
    P x.wait.state := by
  unfold FrameRun.wait
  split
  · exact h
  · exact hf _ h

theorem FrameRun.foundFirst_keeps {P : State → Prop} (hf : ∀ s, P s → P s.waitWork) {x : FrameRun} (h : P x.state) :
    P x.foundFirst.state := by
  unfold FrameRun.foundFirst
  split
  · exact FrameRun.wait_keeps hf h
  · exact h

/-- A property of the state that every operation of a frame start keeps is kept by every piece of its work. -/
theorem FrameRun.work_keeps {P : State → Prop} (hf : ∀ f, FramePiece f → ∀ s, P s → P (f s)) (w : FrameWork)
    {x : FrameRun} (h : P x.state) : P (x.work w).state := by
  cases w
  case editRenumber =>
    have h' := hf _ .renumbered _ h
    simp only [FrameRun.work, FrameRun.dropRenumbered]
    split
    · simpa only [FrameRun.update] using h'
    all_goals exact h
  case roleAdopt =>
    have h1 := hf _ .listenToAlign _ h
    have h2 := hf _ .renumberRole _ h
    simp only [FrameRun.work, FrameRun.handOver]
    split
    · simpa only [FrameRun.update] using h1
    · simpa only [FrameRun.update] using h2
    · exact h
  case foundingWait =>
    have h' := FrameRun.wait_keeps (hf _ .wait) h
    simpa only [FrameRun.work] using h'
  case dumpApply =>
    have h' := hf _ .dumpApply _ (FrameRun.foundFirst_keeps (hf _ .wait) h)
    simpa only [FrameRun.work, FrameRun.update] using h'
  case applications =>
    have h' := hf _ .applications _ (FrameRun.foundFirst_keeps (hf _ .wait) h)
    simpa only [FrameRun.work, FrameRun.update] using h'
  case missCount =>
    have h' := hf _ .missCount _ h
    simpa only [FrameRun.work, FrameRun.update] using h'
  case verdictCount =>
    have h' := hf _ .verdicts _ h
    simpa only [FrameRun.work, FrameRun.update] using h'
  case promotion =>
    have h' := hf _ .promotion _ h
    simpa only [FrameRun.work, FrameRun.update] using h'
  case ownDeadlines =>
    have h' := hf _ .ownDeadlines _ h
    simpa only [FrameRun.work, FrameRun.update] using h'
  case collectionDeadlines =>
    have h' := hf _ .collectionDeadlines _ h
    simpa only [FrameRun.work, FrameRun.update] using h'
  case queryWaits =>
    have h' := hf _ .queryWaits _ h
    simpa only [FrameRun.work, FrameRun.update] using h'
  case goInDoubt =>
    have h' := hf _ .goInDoubt _ h
    simpa only [FrameRun.work, FrameRun.update] using h'
  case observerExpiry =>
    have h' := hf _ .observerExpiry _ h
    simpa only [FrameRun.work, FrameRun.update] using h'
  case catchUpWaits =>
    have h' := hf _ .catchUpWaits _ h
    simpa only [FrameRun.work, FrameRun.update] using h'
  case beaconRenewal =>
    have h' := hf _ .beaconRenewal _ h
    simpa only [FrameRun.work, FrameRun.update] using h'
  case frameTimer =>
    have h' := hf _ .timer _ h
    simpa only [FrameRun.work, FrameRun.update] using h'

/-- A property that the advance gives, every operation of a frame start keeps and the latch keeps holds after it. -/
theorem State.frameStart_keeps {P : State → Prop} {s : State} (order : List FrameWork) (h0 : P s.advanceFrame)
    (hf : ∀ f, FramePiece f → ∀ s, P s → P (f s)) (hl : ∀ s, P s → P s.latchFrame) : P (s.frameStart order).state :=
  State.frameStart_induction (P := fun x => P x.state) order h0 (fun w _ h => FrameRun.work_keeps hf w h)
    fun _ h => hl _ h

/-- A frame-start row ends in the frame start, or leaves the state. -/
theorem State.frameStartWith_cases (s : State) (order : List FrameWork) (event : FrameRun → Bool) :
    (s.timer.running = true ∧ event (s.frameStart order) = true
      ∧ s.frameStartWith order event = (s.frameStart order).state)
    ∨ s.frameStartWith order event = s := by
  unfold State.frameStartWith
  split
  · next h => exact Or.inl ⟨h.1, h.2, rfl⟩
  · exact Or.inr rfl

/-- The due entries are each applied or deferred: a property both keep, the whole keeps. -/
theorem State.takeDue_induction {P : State → Prop} {s : State} (due : EditEntry → Bool) (h0 : P s)
    (ha : ∀ t i e, P t → P (t.applyEntry i e)) (hd : ∀ t i e, P t → P (t.deferEntry i e)) : P (s.takeDue due) := by
  unfold State.takeDue
  generalize sortBy _ (s.entries.filter fun x => due x.2) = xs
  induction xs generalizing s with
  | nil => exact h0
  | cons x xs ih =>
    simp only [List.foldl_cons]
    apply ih
    split
    · exact hd _ _ _ h0
    · exact ha _ _ _ h0

/-- The deferred entries are each removed or applied: a property both keep, the whole keeps. -/
theorem State.applyDeferred_induction {P : State → Prop} {s : State} (f : FrameNo) (h0 : P s)
    (hr : ∀ t i, P t → P (t.removeEntry i)) (ha : ∀ t i e, P t → P (t.applyEntry i e)) : P (s.applyDeferred f) := by
  unfold State.applyDeferred
  have h1 : ∀ (xs : List (Nat × EditEntry)) (u : State), P u → P (xs.foldl (fun s x => s.removeEntry x.1) u) := by
    intro xs
    induction xs with
    | nil => exact fun _ h => h
    | cons x xs ih => exact fun u h => ih _ (hr _ _ h)
  have h2 : ∀ (xs : List (Nat × EditEntry)) (u : State), P u → P (xs.foldl (fun s x => s.applyEntry x.1 x.2) u) := by
    intro xs
    induction xs with
    | nil => exact fun _ h => h
    | cons x xs ih => exact fun u h => ih _ (ha _ _ _ h)
  exact h2 _ _ (h1 _ _ h0)

/-! ### The end of a frame start -/

/-- The frame number after the advance; the rest of the timer but the trim, the lock and the correction is at the start. -/
theorem State.advanceFrame_timer (s : State) : s.advanceFrame.timer = { s.timer with
    frame := s.timer.frame + s.timer.advance.getD 1, advance := none, line := 0, pixel := 0 } := by
  unfold State.advanceFrame
  split <;> rfl

/-- The start of a line-0 fetch again leaves the latched copy, the underrun latch and the panel. -/
theorem PixelPath.reissue_latched (p : PixelPath) (w : Nat) :
    (p.reissue w).latched = p.latched ∧ (p.reissue w).underrun = p.underrun ∧ (p.reissue w).rgb = p.rgb := by
  unfold PixelPath.reissue
  split
  · split
    · exact ⟨rfl, rfl, rfl⟩
    · next n _ _ => cases n <;> exact ⟨rfl, rfl, rfl⟩
  · exact ⟨rfl, rfl, rfl⟩

/-- A frame start ends with the latch of the wall state it leaves. -/
theorem State.frameStart_latched (s : State) (order : List FrameWork) :
    (s.frameStart order).state.pixel.latched = (s.frameStart order).state.latch
    ∧ (s.frameStart order).state.pixel.underrun = false := by
  have h : ∀ t : State, t.latchFrame.pixel.latched = t.latchFrame.latch ∧ t.latchFrame.pixel.underrun = false := fun t =>
    ⟨(PixelPath.reissue_latched _ _).1, (PixelPath.reissue_latched _ _).2.1⟩
  exact h _

/-! ### A pixel clock -/

/-- A property that the cut of a fetch keeps is kept by the cut at a position. -/
theorem State.clockCut_keeps {P : State → Prop} {s : State} (h0 : P s)
    (hcut : ∀ t, P t → P { t with pixel := t.pixel.cut }) : P s.clockCut := by
  unfold State.clockCut
  split
  · exact hcut _ h0
  · exact h0

/-- A property kept by the moves of the scan, its own frame start and the work of a clock is kept by a pixel clock. -/
theorem State.tick_keeps {P : State → Prop} {s : State} (h0 : P s) (hscan : ∀ t l x, P t → P (t.scanTo l x))
    (hframe : ∀ t, P t → P t.ownFrameStart) (hissue : ∀ t n y, P t → P (t.issueFetch n y))
    (hcut : ∀ t, P t → P { t with pixel := t.pixel.cut }) (hread : ∀ t, P t → P t.issueRead)
    (hout : ∀ t l x, P t → P (t.outputPixel l x)) : P s.tick := by
  have hwork : ∀ t, P t → P t.clockWork := by
    intro t ht
    have h1 : P t.clockIssue := by
      unfold State.clockIssue
      split
      · exact hissue _ _ _ ht
      · exact ht
    have h3 := hread _ (State.clockCut_keeps h1 hcut)
    unfold State.clockWork State.clockOutput
    split
    · exact hout _ _ _ h3
    · exact h3
  unfold State.tick
  split
  · split
    · exact hwork _ h0
    · apply hwork
      unfold State.advanceClock
      split
      · exact hscan _ _ _ h0
      · exact hframe _ h0
  · exact h0

end Sys2Proof.Machine
end

