-- ==== Sys2Proof/Laws/Exec.lean ====
section
/-! SUPPORT. What the shared parts of the commands' meanings do: a control-port transaction, an arrival, the end of an attempt,
and the passages of the other blocks that several commands share. -/

namespace Sys2Proof.Machine

open Sys2Proof

/-! ### Transactions -/

/-- In the command phase a frame that is read acts, and its response is left in the response phase. -/
theorem State.transact_command {s s' : State} {f : List Byte} {r : Request} {act : Request → Option (State × Response)}
    {resp : Response} (hp : s.port.phase = .command) (hr : readCommandFrame f = some r) (ha : act r = some (s', resp)) :
    s.transact f act = { s' with port := ⟨.response, some resp⟩ } := by
  simp only [State.transact, hp, hr, Option.bind_some, ha]
  rfl

/-- In the command phase a frame that fails the checks is refused with INVALID. -/
theorem State.transact_bad {s : State} {f : List Byte} {act : Request → Option (State × Response)}
    (hp : s.port.phase = .command) (hr : readCommandFrame f = none) :
    s.transact f act = { s with port := ⟨.response, some ⟨.refused, some .invalid, []⟩⟩ } := by
  simp only [State.transact, hp, hr, Option.bind_none]
  rfl

/-- In the response phase, and while select is held from before a reset, nothing is shifted in. -/
theorem State.transact_ignored {s : State} {f : List Byte} {act : Request → Option (State × Response)}
    (hp : s.port.phase = .response ∨ s.port.phase = .held) : s.transact f act = s := by
  rcases hp with hp | hp <;> simp only [State.transact, hp]

/-- A transaction leaves a state its command answers, or the state, but for the port. -/
theorem State.transact_cases (s : State) (f : List Byte) (act : Request → Option (State × Response)) :
    s.transact f act = s ∨ (∃ p, s.transact f act = { s with port := p })
      ∨ ∃ r s' resp p, act r = some (s', resp) ∧ s.transact f act = { s' with port := p } := by
  unfold State.transact
  split
  · split
    · next s' resp h =>
      obtain ⟨r, _, ha⟩ := Option.bind_eq_some_iff.1 h
      exact Or.inr (Or.inr ⟨r, s', resp, _, ha, rfl⟩)
    · exact Or.inr (Or.inl ⟨_, rfl⟩)
  · split
    · next s' resp h =>
      obtain ⟨r, _, ha⟩ := Option.bind_eq_some_iff.1 h
      exact Or.inr (Or.inr ⟨r, s', resp, _, ha, rfl⟩)
    · exact Or.inr (Or.inl ⟨_, rfl⟩)
  · exact Or.inl rfl
  · exact Or.inl rfl

/-! ### Arrivals -/

theorem State.reception_of_hears {s : State} (h : s.hears) : s.reception.isSome = true := by
  obtain ⟨hr, time, usable, ha⟩ := h
  simp [State.reception, hr, ha]

theorem State.reception_of_attempt {s : State} {time : Time} {usable : Bool} (hr : s.ctl.role.receives = true)
    (ha : s.bus.attempt = some (.receiving time usable)) : s.reception = some (time, usable) := by
  simp [State.reception, hr, ha]

theorem State.reception_of_deaf {s : State} (h : s.ctl.role.receives = false) : s.reception = none := by
  simp [State.reception, h]

/-- A message that the station hears reaches its block after the reception has ended well. -/
theorem State.arrive_of_hears {s : State} (f : State → State) (h : s.hears) : s.arrive f = f s.goodReception := by
  obtain ⟨x, hx⟩ := Option.isSome_iff_exists.1 (State.reception_of_hears h)
  simp [State.arrive, hx]

theorem State.arrive_cases (s : State) (f : State → State) : s.arrive f = f s.goodReception ∨ s.arrive f = s := by
  unfold State.arrive
  split
  · exact Or.inl rfl
  · exact Or.inr rfl

/-! ### Completions -/

/-- The end of the station's own attempt, by what was read back and by the window. -/
theorem execAttemptCompletion_of {s : State} {t : Transmission} (c : Completion)
    (h : s.bus.attempt = some (.transmitting t)) :
    execAttemptCompletion c s =
      .next ((s.endAttempt (ownDrive (readBackFault (t.message.bytes s.cfg.station) c.readBack))).completeAttempt t
        (windowResult c.window (readBackFault (t.message.bytes s.cfg.station) c.readBack))) := by
  simp only [execAttemptCompletion, h]
  rfl

@[simp] theorem windowResult_sound (w : Window) : windowResult w false = w := rfl
@[simp] theorem windowResult_fault (w : Window) : windowResult w true = .void := rfl
@[simp] theorem ownDrive_sound : ownDrive false = .nothing := rfl
@[simp] theorem ownDrive_fault : ownDrive true = .error := rfl

/-- The bits of a bit set are its members. -/
theorem getLsbD_bitSet (w : Nat) (xs : List Nat) {i : Nat} (h : i < w) : (bitSet w xs).getLsbD i = decide (i ∈ xs) := by
  induction xs with
  | nil => simp [bitSet]
  | cons x xs ih =>
    rw [show bitSet w (x :: xs) = BitVec.twoPow w x ||| bitSet w xs from rfl, BitVec.getLsbD_or, ih,
      BitVec.getLsbD_twoPow]
    by_cases hx : i = x
    · subst hx; simp [h]
    · simp [hx, Ne.symm hx]

/-! ### The Edit Unit -/

/-- The decision to take changes the entry, the outcome list and the mark of the attempt alone; when it is not yet due, nothing. -/
theorem State.tryTake_cases (s : State) (i : Nat) :
    s.tryTake i = s ∨ ∃ e, s.entryAt i = some e ∧ e.holding = .own ∧ e.state = .awaiting ∧ e.pendingVoters = some []
      ∧ 3 ≤ s.leadOf e
      ∧ s.tryTake i = (s.enter i { e with state := .taken, late := false } (some .take)).recordOutcome ⟨e.id, true, none, none⟩ := by
  unfold State.tryTake
  split
  · next e he =>
    split
    · next h => exact Or.inr ⟨e, he, h.1, h.2.1, h.2.2.1, h.2.2.2, rfl⟩
    · exact Or.inl rfl
  · exact Or.inl rfl

/-- With no attempt in flight a withdrawal changes nothing. -/
theorem State.withdraw_of_none {s : State} (src : Source) (h : s.bus.attempt = none) : s.withdraw src = s := by
  simp [State.withdraw, h]

theorem State.inAttempt_of_none {s : State} (src : Source) (h : s.bus.attempt = none) : s.inAttempt src = false := by
  simp [State.inAttempt, h]

/-- The application of an edit leaves every block but the wall state, the event queue, the edit table, the torn flag and the
mark of the attempt in flight. -/
theorem State.applyEntry_frame (s : State) (i : Nat) (e : EditEntry) :
    (s.applyEntry i e).peers = s.peers ∧ (s.applyEntry i e).timer = s.timer ∧ (s.applyEntry i e).ctl = s.ctl
    ∧ (s.applyEntry i e).pixel = s.pixel ∧ (s.applyEntry i e).cfg = s.cfg ∧ (s.applyEntry i e).port = s.port
    ∧ (s.applyEntry i e).pending = s.pending ∧ (s.applyEntry i e).catchUp.req = s.catchUp.req
    ∧ (s.applyEntry i e).wall = s.wall.apply e :=
  ⟨rfl, rfl, rfl, rfl, rfl, rfl, rfl, rfl, rfl⟩

/-- An application raises the version by one and keeps state-valid. -/
theorem WallState.apply_version (w : WallState) (e : EditEntry) :
    (w.apply e).version = w.version + 1 ∧ (w.apply e).valid = w.valid := by
  unfold WallState.apply
  split <;> exact ⟨rfl, rfl⟩

/-! ### The Frame Timer -/

/-- The clamp lies within its limits. -/
theorem clamp_bounds {lo hi x : Int} (h : lo ≤ hi) : lo ≤ clamp lo hi x ∧ clamp lo hi x ≤ hi := by
  unfold clamp
  omega

/-- A loss of lock changes the lock status, its counter and the event queue alone. -/
theorem State.loseLock_eq (s : State) (lock : Lock) :
    ∃ ev, s.loseLock lock = { s with timer := { s.timer with lock := lock, lockCount := 0 }, events := ev } := by
  unfold State.loseLock
  dsimp only
  split
  · exact ⟨_, rfl⟩
  · exact ⟨s.events, rfl⟩

theorem State.stepTrim_eq (s : State) (e : Int) :
    ∃ tr ev, s.stepTrim e = { s with timer := { s.timer with trim := tr }, events := ev } := by
  unfold State.stepTrim
  split
  · split
    · exact ⟨s.timer.trim, _, rfl⟩
    · exact ⟨_, s.events, rfl⟩
  · split
    · split
      · exact ⟨s.timer.trim, _, rfl⟩
      · exact ⟨_, s.events, rfl⟩
    · exact ⟨s.timer.trim, s.events, rfl⟩

theorem State.fineLock_eq (s : State) :
    ∃ l c ev, s.fineLock = { s with timer := { s.timer with lock := l, lockCount := c }, events := ev } := by
  unfold State.fineLock
  dsimp only
  split
  · exact ⟨s.timer.lock, _, s.events, rfl⟩
  · split
    · exact ⟨_, _, _, rfl⟩
    · exact ⟨_, _, s.events, rfl⟩

/-! ### The Catch-Up Unit -/

/-- A failed try changes the requester context, the dump buffer, the event queue and the mark of the attempt alone. -/
theorem State.failedTry_frame (s : State) :
    s.failedTry.wall = s.wall ∧ s.failedTry.edit = s.edit ∧ s.failedTry.peers = s.peers ∧ s.failedTry.timer = s.timer
    ∧ s.failedTry.ctl = s.ctl ∧ s.failedTry.catchUp.resp = s.catchUp.resp ∧ s.failedTry.pixel = s.pixel
    ∧ s.failedTry.cfg = s.cfg ∧ s.failedTry.port = s.port ∧ s.failedTry.pending = s.pending
    ∧ s.failedTry.catchUp.buffer = emptyBuffer := by
  unfold State.failedTry
  dsimp only
  split <;> exact ⟨rfl, rfl, rfl, rfl, rfl, rfl, rfl, rfl, rfl, rfl, rfl⟩

/-! ### The Pixel Path -/

@[simp] theorem PixelPath.buffer_setBuffer (p : PixelPath) (n : BufferName) (x : LineBuffer) :
    (p.setBuffer n x).buffer n = x := by
  cases n <;> rfl

theorem PixelPath.buffer_setBuffer_ne (p : PixelPath) {n m : BufferName} (x : LineBuffer) (h : m ≠ n) :
    (p.setBuffer n x).buffer m = p.buffer m := by
  cases n <;> cases m <;> first | rfl | exact absurd rfl h

/-- Writing a buffer changes the two buffers alone. -/
theorem PixelPath.setBuffer_rest (p : PixelPath) (n : BufferName) (x : LineBuffer) :
    (p.setBuffer n x).fetch = p.fetch ∧ (p.setBuffer n x).queued = p.queued ∧ (p.setBuffer n x).latched = p.latched
    ∧ (p.setBuffer n x).underrun = p.underrun ∧ (p.setBuffer n x).givenUp = p.givenUp ∧ (p.setBuffer n x).rgb = p.rgb
    ∧ (p.setBuffer n x).request = p.request := by
  cases n <;> exact ⟨rfl, rfl, rfl, rfl, rfl, rfl, rfl⟩

/-- A cut leaves the buffers, the latched copy, the underrun latch and the panel. -/
theorem PixelPath.cut_rest (p : PixelPath) (n : BufferName) :
    p.cut.buffer n = p.buffer n ∧ p.cut.latched = p.latched ∧ p.cut.underrun = p.underrun ∧ p.cut.rgb = p.rgb := by
  cases n <;> exact ⟨rfl, rfl, rfl, rfl⟩

/-- The issue of a fetch changes the Pixel Path alone, and of it neither the latched copy nor the panel. -/
theorem State.issueFetch_eq (s : State) (n : BufferName) (y : Nat) :
    ∃ p, s.issueFetch n y = { s with pixel := p } ∧ p.latched = s.pixel.latched ∧ p.underrun = s.pixel.underrun
      ∧ p.rgb = s.pixel.rgb ∧ p.givenUp = s.pixel.givenUp ∧ p.issuedHere = true
      ∧ p.requestedHere = s.pixel.requestedHere ∧ p.scannedHere = s.pixel.scannedHere := by
  refine ⟨(s.issueFetch n y).pixel, rfl, ?_⟩
  unfold State.issueFetch
  dsimp only
  split <;> cases n <;> exact ⟨rfl, rfl, rfl, rfl, rfl, rfl, rfl⟩

/-- A read request is left while the timer runs and the fetch in progress has not issued W. -/
theorem State.nextRead_isSome {s : State} :
    s.nextRead.isSome = true ↔ s.timer.running = true ∧ ∃ f y, s.pixel.fetch = some f
      ∧ (s.pixel.buffer f.buffer).line = some y ∧ f.issued < s.cfg.w := by
  unfold State.nextRead
  cases hf : s.pixel.fetch with
  | none => simp
  | some f =>
    dsimp only
    cases hl : (s.pixel.buffer f.buffer).line with
    | none => simp [hl]
    | some y => by_cases hc : s.timer.running = true ∧ f.issued < s.cfg.w <;> simp [hl, hc]

/-- A read request changes the Pixel Path alone, and of it the fetch, the port and the mark of the position alone. -/
theorem State.issueRead_eq (s : State) :
    ∃ f r b, s.issueRead = { s with pixel := { s.pixel with fetch := f, request := r, requestedHere := b } } := by
  unfold State.issueRead
  split
  · exact ⟨s.pixel.fetch, s.pixel.request, s.pixel.requestedHere, rfl⟩
  · split
    · exact ⟨_, _, _, rfl⟩
    · exact ⟨s.pixel.fetch, s.pixel.request, s.pixel.requestedHere, rfl⟩

/-- A clock that has issued its read request issues no other. -/
theorem State.issueRead_of_requested {s : State} (h : s.pixel.requestedHere = true) : s.issueRead = s := by
  simp [State.issueRead, h]

/-- After the read request of a clock no request is owed at it. -/
theorem State.requestOwed_issueRead (s : State) : s.issueRead.requestOwed = false := by
  unfold State.requestOwed
  by_cases h : s.pixel.requestedHere = true
  · rw [State.issueRead_of_requested h, h]
    simp
  · cases hr : s.nextRead with
    | none => simp [State.issueRead, h, hr]
    | some x => simp [State.issueRead, h, hr]

/-- READ_REQUEST_ISSUE at a clock whose request is out leaves the state, or is the next clock of the running scan. -/
theorem State.requestNextClock_cases (s : State) :
    s.requestNextClock = s
    ∨ ∃ l x, s.timer.running = true ∧ s.nextPosition = some (l, x)
      ∧ s.requestNextClock = (s.scanTo l x).clockCut.issueRead := by
  unfold State.requestNextClock
  split
  · next l x hp =>
    dsimp only
    split
    · next h =>
      refine Or.inr ⟨l, x, ?_, hp, rfl⟩
      have hr := (State.nextRead_isSome.1 h).1
      unfold State.clockCut at hr
      split at hr <;> exact hr
    · exact Or.inl rfl
  · exact Or.inl rfl

/-- The colour of a pixel changes the panel, the underrun latch and the event queue alone. -/
theorem State.drawPixel_eq (s : State) (l x : Nat) :
    ∃ c u ev, s.drawPixel l x = { s with pixel := { s.pixel with rgb := c, underrun := u }, events := ev } := by
  unfold State.drawPixel
  split
  · split
    · exact ⟨_, s.pixel.underrun, s.events, rfl⟩
    · unfold State.underrun
      split
      · exact ⟨_, s.pixel.underrun, s.events, rfl⟩
      · exact ⟨_, _, _, rfl⟩
  · exact ⟨_, s.pixel.underrun, s.events, rfl⟩

/-- A pixel that is output already is not output again. -/
theorem State.outputPixel_of_scanned {s : State} (h : s.pixel.scannedHere = true) (l x : Nat) : s.outputPixel l x = s := by
  simp [State.outputPixel, h]

/-- The output of a pixel changes the panel, the underrun latch, the event queue and the mark of the position alone. -/
theorem State.outputPixel_eq (s : State) (l x : Nat) :
    ∃ c u ev, s.outputPixel l x
      = { s with pixel := { s.pixel with rgb := c, underrun := u, scannedHere := true }, events := ev } := by
  by_cases h : s.pixel.scannedHere = true
  · refine ⟨s.pixel.rgb, s.pixel.underrun, s.events, ?_⟩
    rw [State.outputPixel_of_scanned h, ← h]
  · obtain ⟨c, u, ev, hd⟩ := State.drawPixel_eq { s with pixel := { s.pixel with scannedHere := true } } l x
    refine ⟨c, u, ev, ?_⟩
    rw [State.outputPixel, if_neg h, hd]

/-- The scan at the position where it stands already leaves the state as it is. -/
theorem State.scanTo_self {s : State} {l x : Nat} (hl : s.timer.line = l) (hx : s.timer.pixel = x) : s.scanTo l x = s := by
  subst hl hx
  simp [State.scanTo]

end Sys2Proof.Machine
end

