-- ==== Sys2Proof/Laws/Applications.lean ====
section
/-! SUPPORT. What the application and the deferral of due entries do: the order they are taken in, a run of applications, a run
of deferrals. -/

namespace Sys2Proof.Machine

open Sys2Proof

/-! ### Orders -/

theorem insertBy_perm {α : Type} (b : α → α → Bool) (x : α) (ys : List α) : (insertBy b x ys).Perm (x :: ys) := by
  induction ys with
  | nil => exact List.Perm.refl _
  | cons y ys ih =>
    unfold insertBy
    split
    · exact List.Perm.refl _
    · exact (List.Perm.cons y ih).trans (List.Perm.swap x y ys)

/-- Putting a list in order keeps its elements. -/
theorem sortBy_perm {α : Type} (b : α → α → Bool) (xs : List α) : (sortBy b xs).Perm xs := by
  induction xs with
  | nil => exact List.Perm.refl _
  | cons x xs ih => exact (insertBy_perm b x _).trans (List.Perm.cons x ih)

theorem insertBy_pairwise {α : Type} {b : α → α → Bool} (ht : ∀ x y z, b y x = false → b z y = false → b z x = false)
    (ha : ∀ x y, b x y = true → b y x = false) (x : α) {ys : List α} (h : ys.Pairwise fun a c => b c a = false) :
    (insertBy b x ys).Pairwise fun a c => b c a = false := by
  induction ys with
  | nil => simp [insertBy]
  | cons y ys ih =>
    rw [List.pairwise_cons] at h
    unfold insertBy
    split
    · next hb =>
      rw [List.pairwise_cons]
      refine ⟨fun z hz => ?_, List.pairwise_cons.2 h⟩
      rcases List.mem_cons.1 hz with rfl | hz
      · exact ha _ _ hb
      · exact ht x y z (ha _ _ hb) (h.1 z hz)
    · next hb =>
      rw [List.pairwise_cons]
      refine ⟨fun z hz => ?_, ih h.2⟩
      rcases List.mem_cons.1 ((insertBy_perm b x ys).mem_iff.1 hz) with rfl | hz
      · simpa using hb
      · exact h.1 z hz

/-- A list put in order by a strict weak order has no element before an earlier one. -/
theorem sortBy_pairwise {α : Type} {b : α → α → Bool} (ht : ∀ x y z, b y x = false → b z y = false → b z x = false)
    (ha : ∀ x y, b x y = true → b y x = false) (xs : List α) : (sortBy b xs).Pairwise fun a c => b c a = false := by
  induction xs with
  | nil => exact List.Pairwise.nil
  | cons x xs ih => exact insertBy_pairwise ht ha x ih

theorem EditId.before_asymm (a b : EditId) (h : EditId.before a b = true) : EditId.before b a = false := by
  unfold EditId.before at *
  simp only [Bool.or_eq_true, decide_eq_true_eq, Bool.and_eq_true, Bool.or_eq_false_iff, decide_eq_false_iff_not,
    Bool.and_eq_false_iff] at *
  rcases h with h | ⟨h1, h2⟩
  · exact ⟨by omega, Or.inl (by intro hh; rw [hh] at h; omega)⟩
  · rw [h1]
    exact ⟨by omega, Or.inr (by omega)⟩

theorem EditId.before_cotrans (a b c : EditId) (h1 : EditId.before b a = false) (h2 : EditId.before c b = false) :
    EditId.before c a = false := by
  unfold EditId.before at *
  simp only [Bool.or_eq_false_iff, decide_eq_false_iff_not, Bool.and_eq_false_iff] at *
  have e : ∀ x y : EditId, x.proposer = y.proposer ↔ x.proposer.toNat = y.proposer.toNat :=
    fun _ _ => BitVec.toNat_inj.symm
  rw [e] at *
  omega

/-- Entries put in edit-id order stand in edit-id order. -/
theorem sortBy_before (xs : List (Nat × EditEntry)) :
    (sortBy (fun a b => EditId.before a.2.id b.2.id) xs).Pairwise fun x y => EditId.before y.2.id x.2.id = false :=
  sortBy_pairwise (b := fun a b => EditId.before a.2.id b.2.id)
    (fun x y z => EditId.before_cotrans x.2.id y.2.id z.2.id) (fun x y => EditId.before_asymm x.2.id y.2.id) xs

/-- The entries are listed without repeats. -/
theorem State.entries_nodup (s : State) : s.entries.Nodup := by
  unfold State.entries
  apply List.Nodup.filterMap _ List.nodup_range
  intro a a' b hb hb'
  simp only [Option.mem_def, Option.map_eq_some_iff] at hb hb'
  obtain ⟨_, _, rfl⟩ := hb
  obtain ⟨_, _, h⟩ := hb'
  exact (congrArg Prod.fst h).symm

/-! ### Runs of applications and of deferrals -/

theorem State.entryAt_applyEntry (s : State) (i k : Nat) (e : EditEntry) :
    (s.applyEntry i e).entryAt k = if i = k ∧ i < 16 then none else s.entryAt k := by
  unfold State.applyEntry
  rw [State.entryAt_removeEntry]
  rfl

/-- At a station that is not catching up the entries taken are applied, and each leaves its index empty. -/
theorem foldl_take_of_idle (xs : List (Nat × EditEntry)) (s : State) (h : s.catchingUp = false) :
    xs.foldl (fun s x => if s.catchingUp then s.deferEntry x.1 x.2 else s.applyEntry x.1 x.2) s
      = xs.foldl (fun s x => s.applyEntry x.1 x.2) s
    ∧ (xs.foldl (fun s x => s.applyEntry x.1 x.2) s).catchingUp = false
    ∧ ∀ k, (xs.foldl (fun s x => s.applyEntry x.1 x.2) s).entryAt k
        = if k < 16 ∧ k ∈ xs.map (·.1) then none else s.entryAt k := by
  induction xs generalizing s with
  | nil => simp [h]
  | cons x xs ih =>
    simp only [List.foldl_cons, h, Bool.false_eq_true, if_false]
    obtain ⟨h1, h2, h3⟩ := ih (s.applyEntry x.1 x.2) h
    refine ⟨h1, h2, fun k => ?_⟩
    rw [h3, State.entryAt_applyEntry]
    by_cases hk : k = x.1
    · subst hk
      by_cases h16 : x.1 < 16 <;> simp [h16]
    · simp only [Ne.symm hk, false_and, if_false, List.map_cons, List.mem_cons, hk, false_or]

/-- A deferral sets the entry's deferred field, and for a late one the missed flag of a station that is catching up. -/
theorem State.deferEntry_eq (s : State) (i : Nat) (e : EditEntry) :
    s.deferEntry i e = { s with
      edit := { s.edit with table := s.edit.table.setIfInBounds i (some { e with deferred := true }) }
      catchUp := { s.catchUp with
        req := { s.catchUp.req with missed := s.catchUp.req.missed || (e.late && s.catchingUp) } } } := by
  unfold State.deferEntry
  dsimp only
  split
  · next h =>
    rw [State.noteMissed_eq]
    simp [h, State.putEntry]
    rfl
  · next h => simp [h, State.putEntry]

/-- At a station that is catching up the entries taken are deferred; a late one sets the missed flag. -/
theorem foldl_take_of_catchingUp (xs : List (Nat × EditEntry)) (s : State) (h : s.catchingUp = true)
    (hx : ∀ x ∈ xs, s.entryAt x.1 = some x.2) (hnd : xs.Nodup) :
    ∃ tb, xs.foldl (fun s x => if s.catchingUp then s.deferEntry x.1 x.2 else s.applyEntry x.1 x.2) s
      = { s with
          edit := { s.edit with table := tb }
          catchUp := { s.catchUp with
            req := { s.catchUp.req with missed := s.catchUp.req.missed || xs.any fun x => x.2.late } } }
      ∧ ∀ k, (tb[k]?).join = (s.entryAt k).map fun e => if (k, e) ∈ xs then { e with deferred := true } else e := by
  induction xs generalizing s with
  | nil => exact ⟨s.edit.table, by simp, fun k => by simp [State.entryAt]⟩
  | cons x xs ih =>
    simp only [List.foldl_cons, h, if_true]
    rw [State.deferEntry_eq]
    obtain ⟨hnx, hnd⟩ := List.nodup_cons.1 hnd
    have hx0 := hx x (by simp)
    obtain ⟨tb, h1, h2⟩ := ih { s with
        edit := { s.edit with table := s.edit.table.setIfInBounds x.1 (some { x.2 with deferred := true }) }
        catchUp := { s.catchUp with
          req := { s.catchUp.req with missed := s.catchUp.req.missed || (x.2.late && s.catchingUp) } } } h
      (fun y hy => by
        have hne : x.1 ≠ y.1 := by
          intro heq
          have hy0 := hx y (by simp [hy])
          rw [← heq, hx0] at hy0
          have hxy : x = y := Prod.ext heq (by simpa using hy0)
          exact hnx (hxy ▸ hy)
        show ((s.edit.table.setIfInBounds x.1 _)[y.1]?).join = _
        rw [setIfInBounds_entry, if_neg (by tauto)]
        exact hx y (by simp [hy])) hnd
    refine ⟨tb, ?_, fun k => ?_⟩
    · rw [h1]
      simp [h, Bool.or_assoc]
    · rw [h2]
      have hput : State.entryAt ({ s with
          edit := { s.edit with table := s.edit.table.setIfInBounds x.1 (some { x.2 with deferred := true }) }
          catchUp := { s.catchUp with
            req := { s.catchUp.req with missed := s.catchUp.req.missed || (x.2.late && s.catchingUp) } } } : State) k
          = if x.1 = k ∧ x.1 < 16 then some { x.2 with deferred := true } else s.entryAt k := setIfInBounds_entry _ _ _ _
      rw [hput]
      by_cases hk : x.1 = k
      · subst hk
        simp [State.entryAt_lt hx0, hx0]
      · simp only [hk, false_and, if_false]
        cases s.entryAt k with
        | none => rfl
        | some e =>
          have hne : (k, e) ≠ x := fun hh => hk (by rw [← hh])
          simp [hne]

/-- A run of applications at one state: the wall state, the events and the rest, entry by entry. -/
theorem foldl_applyEntry_rest (xs : List (Nat × EditEntry)) (s : State) :
    let t := xs.foldl (fun s x => s.applyEntry x.1 x.2) s
    t.wall = xs.foldl (fun w x => w.apply x.2) s.wall
    ∧ t.events = xs.foldl (fun q x => joinQueue q ⟨.editTaken, s.timer.frame, none, some x.2.id, none, none, false⟩) s.events
    ∧ t.timer = s.timer ∧ t.ctl = s.ctl ∧ t.peers = s.peers ∧ t.pixel = s.pixel ∧ t.cfg = s.cfg ∧ t.port = s.port
    ∧ t.catchUp.req = s.catchUp.req ∧ t.catchUp.buffer = s.catchUp.buffer := by
  induction xs generalizing s with
  | nil => exact ⟨rfl, rfl, rfl, rfl, rfl, rfl, rfl, rfl, rfl, rfl⟩
  | cons x xs ih => exact ih (s.applyEntry x.1 x.2)

/-- A run of removals leaves the indices of its entries empty and changes nothing but the edit table and the mark of the
attempt. -/
theorem foldl_removeEntry (xs : List (Nat × EditEntry)) (s : State) :
    (∃ tb b, xs.foldl (fun s x => s.removeEntry x.1) s
      = { s with edit := { s.edit with table := tb }, bus := { s.bus with attempt := b } })
    ∧ ∀ k, (xs.foldl (fun s x => s.removeEntry x.1) s).entryAt k
        = if k < 16 ∧ k ∈ xs.map (·.1) then none else s.entryAt k := by
  induction xs generalizing s with
  | nil => exact ⟨⟨s.edit.table, s.bus.attempt, rfl⟩, fun k => by simp⟩
  | cons x xs ih =>
    obtain ⟨⟨tb, b, h1⟩, h2⟩ := ih (s.removeEntry x.1)
    refine ⟨⟨tb, b, ?_⟩, fun k => ?_⟩
    · rw [List.foldl_cons, h1, State.removeEntry_bus, State.removeEntry_edit]
      rw [Bus.withdraw_eq]
      rfl
    · rw [List.foldl_cons, h2, State.entryAt_removeEntry]
      by_cases hk : k = x.1
      · subst hk
        by_cases h16 : x.1 < 16 <;> simp [h16]
      · simp only [Ne.symm hk, false_and, if_false, List.map_cons, List.mem_cons, hk, false_or]

/-! ### Removals -/

/-- A drop with no attempt in flight: the index is left empty and EDIT-DROPPED is posted. -/
theorem State.dropEntry_of_none (u : State) (i : Nat) (e : EditEntry) (r : Reason) (hn : u.bus.attempt = none) :
    u.dropEntry i e r = { u with
      edit := { u.edit with table := u.edit.table.setIfInBounds i none }
      events := joinQueue u.events ⟨.editDropped, u.timer.frame, none, some e.id, some r, none, false⟩ } := by
  simp only [State.dropEntry, State.removeEntry, State.withdraw_of_none _ hn]
  rfl

/-- The entries at some indices. -/
def State.entriesAt (s : State) (xs : List Nat) : List (Nat × EditEntry) :=
  xs.filterMap fun i => (s.entryAt i).map fun e => (i, e)

/-- Dropping at some indices, none twice, the entries that satisfy a test. -/
theorem State.dropEach_at (P : EditEntry → Bool) (r : Reason) (xs : List Nat) (hnd : xs.Nodup) (u : State)
    (hn : u.bus.attempt = none) :
    ∃ table, (xs.foldl (fun s i => match s.entryAt i with
        | some e => if P e then s.dropEntry i e r else s
        | none => s) u) = { u with
          edit := { u.edit with table := table }
          events := ((u.entriesAt xs).filter fun x => P x.2).foldl
            (fun q x => joinQueue q ⟨.editDropped, u.timer.frame, none, some x.2.id, some r, none, false⟩) u.events }
      ∧ ∀ k, (table[k]?).join = if k ∈ xs then (u.entryAt k).bind fun e => if P e then none else some e
          else u.entryAt k := by
  induction xs generalizing u with
  | nil => exact ⟨u.edit.table, rfl, fun k => by simp [State.entryAt]⟩
  | cons i xs ih =>
    obtain ⟨hni, hnd⟩ := List.nodup_cons.1 hnd
    rw [List.foldl_cons]
    cases hi : u.entryAt i with
    | none =>
      obtain ⟨tb, h1, h2⟩ := ih hnd u hn
      refine ⟨tb, by rw [h1]; simp [State.entriesAt, hi], fun k => ?_⟩
      rw [h2]
      by_cases hk : k = i
      · subst hk
        simp [hni, hi]
      · simp [hk]
    | some e =>
      by_cases hp : P e = true
      · have hrest : (u.dropEntry i e r).entriesAt xs = u.entriesAt xs := by
          refine List.filterMap_congr fun j hj => ?_
          rw [State.entryAt_dropEntry, if_neg]
          rintro ⟨rfl, _⟩
          exact hni hj
        obtain ⟨tb, h1, h2⟩ := ih hnd (u.dropEntry i e r) (by rw [State.dropEntry_of_none u i e r hn]; exact hn)
        refine ⟨tb, ?_, fun k => ?_⟩
        · simp only [hp, if_true]
          rw [h1, hrest, State.dropEntry_of_none u i e r hn]
          simp [State.entriesAt, hi, hp]
        · rw [h2, State.entryAt_dropEntry]
          by_cases hk : k = i
          · subst hk
            simp [hni, hi, hp, State.entryAt_lt hi]
          · simp [hk, Ne.symm hk]
      · obtain ⟨tb, h1, h2⟩ := ih hnd u hn
        refine ⟨tb, by simp only [hp]; exact h1.trans (by simp [State.entriesAt, hi, hp]), fun k => ?_⟩
        rw [h2]
        by_cases hk : k = i
        · subst hk
          simp [hni, hi, hp]
        · simp [hk]

/-- Dropping the entries that satisfy a test, one after another in index order, with no attempt in flight: their indices are
left empty, EDIT-DROPPED is posted for each, and nothing else changes. -/
theorem State.dropEach (P : EditEntry → Bool) (r : Reason) (u : State) (hn : u.bus.attempt = none) :
    ∃ table, (u.forEntries fun i e s => if P e then s.dropEntry i e r else s) = { u with
        edit := { u.edit with table := table }
        events := (u.entries.filter fun x => P x.2).foldl
          (fun q x => joinQueue q ⟨.editDropped, u.timer.frame, none, some x.2.id, some r, none, false⟩) u.events }
      ∧ ∀ k, (u.forEntries fun i e s => if P e then s.dropEntry i e r else s).entryAt k = (u.entryAt k).bind fun e =>
          if P e then none else some e := by
  obtain ⟨tb, h1, h2⟩ := State.dropEach_at P r (List.range 16) List.nodup_range u hn
  refine ⟨tb, h1, fun k => ?_⟩
  refine (congrArg (fun t => State.entryAt t k) h1).trans ((h2 k).trans ?_)
  by_cases hk : k < 16
  · simp [hk]
  · simp [hk, State.entryAt_of_le (Nat.not_lt.1 hk)]

end Sys2Proof.Machine
end

