-- ==== Sys2Proof/Laws/Clock.lean ====
section
/-! SUPPORT. What the work of one pixel clock is: its four pieces as the rows of the table at the scan position, what each can
change, and that nothing is owed after it. -/

namespace Sys2Proof.Machine

open Sys2Proof

/-! ### What each piece changes -/

/-- A due fetch changes the Pixel Path alone. -/
theorem State.clockIssue_eq (s : State) : ∃ p, s.clockIssue = { s with pixel := p } := by
  unfold State.clockIssue
  split
  · exact ⟨_, rfl⟩
  · exact ⟨s.pixel, rfl⟩

/-- A cut changes the Pixel Path alone. -/
theorem State.clockCut_eq (s : State) : ∃ p, s.clockCut = { s with pixel := p } := by
  unfold State.clockCut
  split
  · exact ⟨_, rfl⟩
  · exact ⟨s.pixel, rfl⟩

/-- The output of a clock changes the Pixel Path and the event queue alone. -/
theorem State.clockOutput_eq (s : State) : ∃ p ev, s.clockOutput = { s with pixel := p, events := ev } := by
  unfold State.clockOutput
  split
  · obtain ⟨_, _, _, h⟩ := s.outputPixel_eq s.timer.line s.timer.pixel
    exact ⟨_, _, h⟩
  · exact ⟨s.pixel, s.events, rfl⟩

/-- The work of a clock changes the Pixel Path and the event queue alone. -/
theorem State.clockWork_eq (s : State) : ∃ p ev, s.clockWork = { s with pixel := p, events := ev } := by
  unfold State.clockWork
  obtain ⟨p, h1⟩ := s.clockIssue_eq
  rw [h1]
  obtain ⟨q, h2⟩ := State.clockCut_eq { s with pixel := p }
  rw [h2]
  obtain ⟨f, r, b, h3⟩ := State.issueRead_eq { s with pixel := q }
  rw [h3]
  exact State.clockOutput_eq _

/-! ### The pieces as rows -/

/-- FETCH_ISSUE of the line of a running scan is the issue of its clock. -/
theorem execFetchIssue_at_scan {s : State} (hr : s.timer.running = true) :
    execFetchIssue s.timer.line s = .next s.clockIssue := by
  unfold execFetchIssue State.clockIssue State.fetchOwed
  by_cases hp : s.timer.pixel = 0
  · cases hd : s.dueFetch s.timer.line with
    | none => simp
    | some y =>
      have hreach : s.reaches s.timer.line 0 = true := by simp [State.reaches, hr, hp]
      simp only [hreach, if_true, State.issueAt, State.scanTo_self rfl hp]
      cases hi : s.pixel.issuedHere <;> simp [hp]
  · have hreach : s.reaches s.timer.line 0 = false := by simp [State.reaches, hp]
    cases hd : s.dueFetch s.timer.line <;> simp [hp, hreach]

theorem PixelPath.fetchLine_eq_some {p : PixelPath} {l : Nat} :
    p.fetchLine = some l ↔ ∃ f, p.fetch = some f ∧ (p.buffer f.buffer).line = some l := by
  unfold PixelPath.fetchLine
  cases p.fetch <;> simp

/-- FETCH_CUT, where the scan of a running timer has just left its own line, is the cut of its clock. -/
theorem execFetchCut_at_scan {s : State} (hr : s.timer.running = true)
    (h : s.timer.pixel = s.cfg.w ∧ s.pixel.fetchLine = some s.timer.line) : execFetchCut s = .next s.clockCut := by
  have hreach : s.reaches s.timer.line s.cfg.w = true := by simp [State.reaches, hr, h.1]
  unfold execFetchCut State.clockCut
  rw [if_pos h, h.2]
  simp only [hreach, if_true]
  congr 1
  exact State.scanTo_self rfl h.1

/-- ACTIVE_PIXEL_SCAN of the position of a running scan is the output of its clock. -/
theorem execActivePixelScan_at_scan {s : State} (hr : s.timer.running = true) :
    execActivePixelScan s.timer.line s.timer.pixel s = .next s.clockOutput := by
  have hreach : s.reaches s.timer.line s.timer.pixel = true := by simp [State.reaches, hr]
  unfold execActivePixelScan State.clockOutput
  simp only [hreach, and_true, State.scanTo_self (s := s) rfl rfl]

/-! ### Nothing is owed after the work -/

theorem State.fetchOwed_clockIssue (s : State) : s.clockIssue.fetchOwed = none := by
  unfold State.clockIssue
  split
  · next y h =>
    obtain ⟨p, hp, _, _, _, _, hi, _⟩ := s.issueFetch_eq (s.pixel.spare s.timer.line) y
    rw [hp]
    simp [State.fetchOwed, hi]
  · next h => exact h

/-- The output of a clock leaves what is owed of fetches and requests, and owes no pixel. -/
theorem State.clockOutput_owed (s : State) :
    s.clockOutput.pixelOwed = false ∧ s.clockOutput.requestOwed = s.requestOwed
    ∧ s.clockOutput.fetchOwed = s.fetchOwed := by
  unfold State.clockOutput
  split
  · obtain ⟨c, u, ev, h⟩ := s.outputPixel_eq s.timer.line s.timer.pixel
    rw [h]
    exact ⟨by simp [State.pixelOwed], rfl, rfl⟩
  · next h => exact ⟨by simp [State.pixelOwed, h], rfl, rfl⟩

/-- After the work of a clock nothing is owed at its position. -/
theorem State.clockOwed_clockWork (s : State) : s.clockWork.clockOwed = false := by
  have hfetch : s.clockIssue.clockCut.issueRead.fetchOwed = s.clockIssue.fetchOwed := by
    obtain ⟨f, r, b, h⟩ := s.clockIssue.clockCut.issueRead_eq
    rw [h]
    unfold State.clockCut
    split <;> rfl
  obtain ⟨h1, h2, h3⟩ := s.clockIssue.clockCut.issueRead.clockOutput_owed
  unfold State.clockWork State.clockOwed
  rw [h1, h2, h3, State.requestOwed_issueRead, hfetch, State.fetchOwed_clockIssue]
  rfl

end Sys2Proof.Machine
end

