-- ==== Sys2Proof/Laws/Encoding.lean ====
section
/-! SUPPORT. Reading back what the writers of the byte layouts write: fields, records, parameters, payloads. -/

namespace Sys2Proof

open Sys2Proof.Machine

/-! ### Fields -/

@[simp] theorem bytes2_length (x : Half) : (bytes2 x).length = 2 := rfl
@[simp] theorem bytes3_length (x : BitVec 24) : (bytes3 x).length = 3 := rfl
@[simp] theorem bytes4_length (x : BitVec 32) : (bytes4 x).length = 4 := rfl

@[simp] theorem ofBytes2_bytes2 (x : Half) : ofBytes2 (x.extractLsb' 8 8) (x.extractLsb' 0 8) = x := by
  apply BitVec.eq_of_getLsbD_eq
  intro i hi
  unfold ofBytes2
  rw [BitVec.getLsbD_append]
  simp only [BitVec.getLsbD_extractLsb']
  split
  · simp; omega
  · rw [show 8 + (i - 8) = i by omega]; simp; omega

@[simp] theorem ofBytes3_bytes3 (x : BitVec 24) :
    ofBytes3 (x.extractLsb' 16 8) (x.extractLsb' 8 8) (x.extractLsb' 0 8) = x := by
  apply BitVec.eq_of_getLsbD_eq
  intro i hi
  unfold ofBytes3
  rw [BitVec.getLsbD_append, BitVec.getLsbD_append]
  simp only [BitVec.getLsbD_extractLsb']
  split
  · simp; omega
  · split
    · rw [show 8 + (i - 8) = i by omega]; simp; omega
    · rw [show 16 + (i - 8 - 8) = i by omega]; simp; omega

@[simp] theorem ofBytes4_bytes4 (x : BitVec 32) :
    ofBytes4 (x.extractLsb' 24 8) (x.extractLsb' 16 8) (x.extractLsb' 8 8) (x.extractLsb' 0 8) = x := by
  apply BitVec.eq_of_getLsbD_eq
  intro i hi
  unfold ofBytes4
  rw [BitVec.getLsbD_append, BitVec.getLsbD_append, BitVec.getLsbD_append]
  simp only [BitVec.getLsbD_extractLsb']
  split
  · simp; omega
  · split
    · rw [show 8 + (i - 8) = i by omega]; simp; omega
    · split
      · rw [show 16 + (i - 8 - 8) = i by omega]; simp; omega
      · rw [show 24 + (i - 8 - 8 - 8) = i by omega]; simp; omega

theorem bytes2_injective {x y : Half} (h : bytes2 x = bytes2 y) : x = y := by
  simp only [bytes2, List.cons.injEq, and_true] at h
  rw [← ofBytes2_bytes2 x, ← ofBytes2_bytes2 y, h.1, h.2]

@[simp] theorem ofFlagByte_flagByte (f : Bool) : ofFlagByte (flagByte f) = some f := by cases f <;> rfl

/-! ### Colour records -/

@[simp] theorem recordBytes_length (cs : List Colour) : (recordBytes cs).length = 4 * cs.length := by
  induction cs with
  | nil => rfl
  | cons c cs ih =>
    simp only [recordBytes, List.flatMap_cons, List.length_append, List.length_cons] at *
    simp only [ih, Colour.bytes, bytes4_length]
    omega

theorem Colour.ofBytes_word (r g b : BitVec 10) :
    ((0#2 ++ r ++ g ++ b).extractLsb' 20 10 = r ∧ (0#2 ++ r ++ g ++ b).extractLsb' 10 10 = g
      ∧ (0#2 ++ r ++ g ++ b).extractLsb' 0 10 = b) := by
  refine ⟨?_, ?_, ?_⟩
  all_goals
    ext i hi
    simp only [BitVec.getElem_extractLsb', BitVec.getLsbD_append]
    repeat' split
    all_goals first
      | omega
      | (rw [← BitVec.getLsbD_eq_getElem hi]; congr 1; omega)

/-- The word of a record has R, G and B in its lower thirty bits. -/
theorem Colour.ofBytes_bytes (c : Colour) (w : BitVec 32) (hw : w = 0#2 ++ c.r ++ c.g ++ c.b) :
    Colour.ofBytes (w.extractLsb' 24 8) (w.extractLsb' 16 8) (w.extractLsb' 8 8) (w.extractLsb' 0 8) = c := by
  subst hw
  obtain ⟨hr, hg, hb⟩ := Colour.ofBytes_word c.r c.g c.b
  simp only [Colour.ofBytes, ofBytes4_bytes4]
  rw [hr, hg, hb]

@[simp] theorem readRecords_recordBytes (cs : List Colour) : readRecords (recordBytes cs) = some cs := by
  induction cs with
  | nil => rfl
  | cons c cs ih =>
    simp only [recordBytes, List.flatMap_cons] at *
    simp only [Colour.bytes, bytes4, List.cons_append, List.nil_append, readRecords]
    rw [ih, Colour.ofBytes_bytes c _ rfl]
    rfl

/-- Only whole records are read: four bytes each. -/
theorem readRecords_isSome (bs : List Byte) : (readRecords bs).isSome = true ↔ ∃ k, bs.length = 4 * k := by
  induction bs using readRecords.induct with
  | case1 => simp [readRecords]
  | case2 a b c d rest ih =>
    simp only [readRecords, Option.isSome_map, ih, List.length_cons]
    constructor
    · rintro ⟨k, hk⟩; exact ⟨k + 1, by omega⟩
    · rintro ⟨k, hk⟩; exact ⟨k - 1, by omega⟩
  | case3 bs h1 h2 =>
    have hn : readRecords bs = none := by
      match bs, h1, h2 with
      | [], h1, _ => simp at h1
      | [_], _, _ => rfl
      | [_, _], _, _ => rfl
      | [_, _, _], _, _ => rfl
      | a :: b :: c :: d :: rest, _, h2 => exact absurd rfl (h2 a b c d rest)
    simp only [hn, Option.isSome_none, Bool.false_eq_true, false_iff, not_exists]
    intro k
    match bs, h1, h2 with
    | [], h1, _ => simp at h1
    | [_], _, _ => simp only [List.length_cons, List.length_nil]; omega
    | [_, _], _, _ => simp only [List.length_cons, List.length_nil]; omega
    | [_, _, _], _, _ => simp only [List.length_cons, List.length_nil]; omega
    | a :: b :: c :: d :: rest, _, h2 => exact absurd rfl (h2 a b c d rest)

theorem readRecords_length {bs : List Byte} {cs : List Colour} (h : readRecords bs = some cs) :
    bs.length = 4 * cs.length := by
  induction bs using readRecords.induct generalizing cs with
  | case1 => simp_all [readRecords]
  | case2 a b c d rest ih =>
    simp only [readRecords, Option.map_eq_some_iff] at h
    obtain ⟨ds, hds, rfl⟩ := h
    have := ih hds
    simp only [List.length_cons]
    omega
  | case3 bs h1 h2 =>
    match bs, h1, h2, h with
    | [], h1, _, _ => simp at h1
    | [_], _, _, h => simp [readRecords] at h
    | [_, _], _, _, h => simp [readRecords] at h
    | [_, _, _], _, _, h => simp [readRecords] at h
    | a :: b :: c :: d :: rest, _, h2, _ => exact absurd rfl (h2 a b c d rest)

/-! ### Frames -/

/-- A frame whose length field and check agree is read by its code and parameters (R172). -/
theorem readCommandFrame_of_check (code : Byte) (params : List Byte) (check : Half) (h : params.length < 65536) :
    readCommandFrame (code :: (bytes2 (BitVec.ofNat 16 params.length) ++ params ++ bytes2 check))
      = if check = frameCheck (code :: (bytes2 (BitVec.ofNat 16 params.length) ++ params)) then readRequest code params
        else none := by
  have hlen : (BitVec.ofNat 16 params.length).toNat = params.length := by
    rw [BitVec.toNat_ofNat]; omega
  have hb : ∀ x : Half, bytes2 x = [x.extractLsb' 8 8, x.extractLsb' 0 8] := fun _ => rfl
  rw [hb (BitVec.ofNat 16 params.length)]
  simp only [List.cons_append, List.nil_append, readCommandFrame, ofBytes2_bytes2, hlen, List.length_append,
    bytes2_length, true_and, List.drop_left, List.take_left]
  by_cases hc : check = frameCheck (code :: (BitVec.ofNat 16 params.length).extractLsb' 8 8
      :: (BitVec.ofNat 16 params.length).extractLsb' 0 8 :: params)
  · rw [if_pos hc, if_pos (by rw [← hc])]
  · rw [if_neg hc, if_neg (fun h' => hc (bytes2_injective h'))]

/-- The frame written for a code and parameters is read by them. -/
theorem readCommandFrame_commandFrame (code : Byte) (params : List Byte) (h : params.length < 65536) :
    readCommandFrame (commandFrame code params) = readRequest code params := by
  have := readCommandFrame_of_check code params
    (frameCheck (code :: (bytes2 (BitVec.ofNat 16 params.length) ++ params))) h
  rw [if_pos rfl] at this
  simpa [commandFrame] using this

@[simp] theorem readGeometry_bytes (g : Geometry) : readGeometry g.bytes = some g := by
  simp [Geometry.bytes, bytes2, bytes3, readGeometry]

/-! ### Messages -/

theorem MsgKind.ofCode_code (k : MsgKind) : MsgKind.ofCode k.code = some k := by cases k <;> decide

theorem MsgKind.rank_lt (k : MsgKind) : k.rank < 8 := by cases k <;> decide

theorem keyByte_toNat (rank : Nat) (sender : Station) (hr : rank < 8) :
    (keyByte rank sender).toNat = 32 * rank + sender.toNat % 32 := by
  have : sender.toNat % 32 < 32 := Nat.mod_lt _ (by decide)
  rw [keyByte, BitVec.toNat_ofNat, Nat.mod_eq_of_lt (by omega)]

@[simp] theorem readTarget_bytes (t : Target) : readTarget t.bytes.1 t.bytes.2 = some t := by
  cases t <;> simp [Target.bytes, bytes2, readTarget]

@[simp] theorem readFragment_recordBytes (cs : List Colour) :
    readFragment (recordBytes cs) = if 1 ≤ cs.length ∧ cs.length ≤ 5 then some cs else none := by
  simp [readFragment]

/-- The first two flags of a flags byte are read back. -/
theorem flagBits_low (a b c d e : Bool) :
    (flagBits a b c d e).getLsbD 0 = a ∧ (flagBits a b c d e).getLsbD 1 = b := by
  revert a b c d e
  decide

/-! ### What a transmitter reads back -/

/-- A message read back as it was sent shows no fault. -/
theorem readBackFault_self (bytes : List Byte) : readBackFault bytes bytes = false := by
  unfold readBackFault
  rw [List.any_eq_false]
  intro x hx
  obtain ⟨i, hi⟩ := List.mem_iff_getElem?.1 (List.mem_of_mem_drop hx)
  rw [List.getElem?_zip_eq_some] at hi
  obtain ⟨h1, h2⟩ := hi
  have heq : x.1 = x.2 := by rw [h1] at h2; simpa using h2
  rw [heq]
  simp

/-- With nothing read back there is no fault. -/
theorem readBackFault_nil (bytes : List Byte) : readBackFault bytes [] = false := by simp [readBackFault]

end Sys2Proof
end

