-- ==== Sys2Proof/WellFormed.lean ====
section
/-! DEFINITION. Which commands the outside can send: the checks on the operands of an Instr. -/

namespace Sys2Proof

/-- A station number carried in an arbitration key: five bits (R186). -/
def Station.inKey (s : Station) : Bool := s.toNat < 32

/-- A frame of a control row: the number of bytes its header announces has been shifted in (R170), and its code is the
row's or names no command (R172). -/
def frameOf (code : Byte) : List Byte → Bool
  | c :: h :: l :: rest =>
    (c = code || !commandCodes.contains c) && rest.length = (ofBytes2 h l).toNat + 2
  | _ => false

/-- The bytes of the longest message: key, kind, length, 24 payload bytes and frame check (R147, R186). -/
def longestMessage : Nat := 29

/-- Well-formedness of a command. -/
def Instr.wf : Instr → Bool
  | .powerOnReset | .resetPin | .transactionVoided | .fetchCut | .receptionStart | .corruptReception | .voidReception
  | .transactionSelect | .transactionDeselect | .readRequestIssue | .idleGap | .readAnswer _ => true
  | .attemptCompletion c => c.readBack.length ≤ longestMessage
  | .status f => frameOf 0x01 f
  | .configure f => frameOf 0x02 f
  | .join f => frameOf 0x03 f
  | .leave f => frameOf 0x04 f
  | .submitPalette f => frameOf 0x10 f
  | .submitPan f => frameOf 0x11 f
  | .submitLevel f => frameOf 0x12 f
  | .submitBlank f => frameOf 0x13 f
  | .readPeer f => frameOf 0x20 f
  | .readEdit f => frameOf 0x21 f
  | .readPalette f => frameOf 0x22 f
  | .readEvent f => frameOf 0x23 f
  | .reset f => frameOf 0x30 f
  | .frameStart o | .founding o | .foundingWaitExpiryAlign o | .askWaitExpiry o | .receiveWaitExpiry o
  | .retryWaitExpiry o | .queryWaitExpiry _ o => FrameWork.allowed o
  | .peerSilent p o => p.inKey && FrameWork.allowed o
  | .fetchIssue line => line < 2 * 4095
  | .activePixelScan line pixel => line < 4095 && pixel < 8191
  | .attemptStart rivals => rivals.all (fun m => m != [])
  | .beaconArrival s _ | .farewellArrival s _ | .proposeArrival s _ _ _ | .acceptArrival s _ | .refuseArrival s _ _
  | .takeArrival s _ | .dropArrival s _ _ | .queryArrival s _ | .outcomeArrival s _ _ | .dumpRequestArrival s _
  | .dumpBeginArrival s _ _ | .dumpEndArrival s _ _ _ => s.inKey
  | .dataArrival s _ _ records | .dumpDataArrival s _ _ records =>
    s.inKey && 1 ≤ records.length && records.length ≤ 5
  | .messageDiscarded bytes => readMessage bytes = .discarded

end Sys2Proof
end

