-- ==== Sys2Proof/Laws/PerInstr.lean ====
section
/-! SUPPORT. What well-formedness says of the operands of every command, one lemma for each constructor of Instr. -/

namespace Sys2Proof

open Sys2Proof.Machine

/-- A well-formed frame has the five bytes around its parameters at least (R170, R185). -/
theorem five_le_of_frameOf {code : Byte} {f : List Byte} (h : frameOf code f = true) : 5 ≤ f.length := by
  match f, h with
  | [], h => simp [frameOf] at h
  | [_], h => simp [frameOf] at h
  | [_, _], h => simp [frameOf] at h
  | c :: a :: b :: rest, h =>
    simp only [frameOf, Bool.and_eq_true, decide_eq_true_eq] at h
    simp only [List.length_cons]
    omega

/-- The operands of a well-formed command: a frame is whole, and an order of frame-start work is followed as it stands. -/
def Laws.WellFormedOperands.Statement (i : Instr) : Prop :=
  i.wf = true →
    (∀ f, i.controlFrame = some f → 5 ≤ f.length) ∧ ∀ o, i.frameOrder = some o → FrameWork.effective o = o

namespace Laws.WellFormedOperands

theorem of_neither {i : Instr} (h1 : i.controlFrame = none) (h2 : i.frameOrder = none) : Statement i := fun _ =>
  ⟨fun f h => (by rw [h1] at h; cases h), fun o h => (by rw [h2] at h; cases h)⟩

theorem of_frame {i : Instr} {code : Byte} {f : List Byte} (h1 : i.controlFrame = some f) (h2 : i.frameOrder = none)
    (h : i.wf = true → frameOf code f = true) : Statement i := fun hw =>
  ⟨fun g hg => (by rw [h1] at hg; cases hg; exact five_le_of_frameOf (h hw)),
   fun o ho => (by rw [h2] at ho; cases ho)⟩

theorem of_order {i : Instr} {o : List FrameWork} (h1 : i.controlFrame = none) (h2 : i.frameOrder = some o)
    (h : i.wf = true → FrameWork.allowed o = true) : Statement i := fun hw =>
  ⟨fun g hg => (by rw [h1] at hg; cases hg),
   fun p hp => (by rw [h2] at hp; cases hp; exact FrameWork.effective_of_allowed (h hw))⟩

theorem powerOnReset : Statement (.powerOnReset) := of_neither rfl rfl
theorem resetPin : Statement (.resetPin) := of_neither rfl rfl
theorem status (frame : List Byte) : Statement (.status frame) := of_frame rfl rfl fun h => h
theorem configure (frame : List Byte) : Statement (.configure frame) := of_frame rfl rfl fun h => h
theorem join (frame : List Byte) : Statement (.join frame) := of_frame rfl rfl fun h => h
theorem leave (frame : List Byte) : Statement (.leave frame) := of_frame rfl rfl fun h => h
theorem submitPalette (frame : List Byte) : Statement (.submitPalette frame) := of_frame rfl rfl fun h => h
theorem submitPan (frame : List Byte) : Statement (.submitPan frame) := of_frame rfl rfl fun h => h
theorem submitLevel (frame : List Byte) : Statement (.submitLevel frame) := of_frame rfl rfl fun h => h
theorem submitBlank (frame : List Byte) : Statement (.submitBlank frame) := of_frame rfl rfl fun h => h
theorem readPeer (frame : List Byte) : Statement (.readPeer frame) := of_frame rfl rfl fun h => h
theorem readEdit (frame : List Byte) : Statement (.readEdit frame) := of_frame rfl rfl fun h => h
theorem readPalette (frame : List Byte) : Statement (.readPalette frame) := of_frame rfl rfl fun h => h
theorem readEvent (frame : List Byte) : Statement (.readEvent frame) := of_frame rfl rfl fun h => h
theorem reset (frame : List Byte) : Statement (.reset frame) := of_frame rfl rfl fun h => h
theorem transactionVoided : Statement (.transactionVoided) := of_neither rfl rfl
theorem frameStart (order : List FrameWork) : Statement (.frameStart order) := of_order rfl rfl fun h => h
theorem peerSilent (peer : Station) (order : List FrameWork) :
    Statement (.peerSilent peer order) := of_order rfl rfl fun h => (Bool.and_eq_true _ _ ▸ h).2
theorem founding (order : List FrameWork) : Statement (.founding order) := of_order rfl rfl fun h => h
theorem foundingWaitExpiryAlign (order : List FrameWork) :
    Statement (.foundingWaitExpiryAlign order) := of_order rfl rfl fun h => h
theorem queryWaitExpiry (id : EditId) (order : List FrameWork) :
    Statement (.queryWaitExpiry id order) := of_order rfl rfl fun h => h
theorem askWaitExpiry (order : List FrameWork) : Statement (.askWaitExpiry order) := of_order rfl rfl fun h => h
theorem receiveWaitExpiry (order : List FrameWork) : Statement (.receiveWaitExpiry order) := of_order rfl rfl fun h => h
theorem retryWaitExpiry (order : List FrameWork) : Statement (.retryWaitExpiry order) := of_order rfl rfl fun h => h
theorem fetchIssue (line : Nat) : Statement (.fetchIssue line) := of_neither rfl rfl
theorem readAnswer (index : Byte) : Statement (.readAnswer index) := of_neither rfl rfl
theorem fetchCut : Statement (.fetchCut) := of_neither rfl rfl
theorem activePixelScan (line pixel : Nat) : Statement (.activePixelScan line pixel) := of_neither rfl rfl
theorem attemptStart (rivals : List (List Byte)) : Statement (.attemptStart rivals) := of_neither rfl rfl
theorem receptionStart : Statement (.receptionStart) := of_neither rfl rfl
theorem attemptCompletion (completion : Completion) : Statement (.attemptCompletion completion) := of_neither rfl rfl
theorem corruptReception : Statement (.corruptReception) := of_neither rfl rfl
theorem voidReception : Statement (.voidReception) := of_neither rfl rfl
theorem beaconArrival (sender : Station) (beacon : Beacon) :
    Statement (.beaconArrival sender beacon) := of_neither rfl rfl
theorem farewellArrival (sender station : Station) : Statement (.farewellArrival sender station) := of_neither rfl rfl
theorem proposeArrival (sender : Station) (id : EditId) (takeFrame : FrameNo) (target : Target) :
    Statement (.proposeArrival sender id takeFrame target) := of_neither rfl rfl
theorem dataArrival (sender : Station) (id : EditId) (fragment : Byte) (records : List Colour) :
    Statement (.dataArrival sender id fragment records) := of_neither rfl rfl
theorem acceptArrival (sender : Station) (id : EditId) : Statement (.acceptArrival sender id) := of_neither rfl rfl
theorem refuseArrival (sender : Station) (id : EditId) (reason : Byte) :
    Statement (.refuseArrival sender id reason) := of_neither rfl rfl
theorem takeArrival (sender : Station) (id : EditId) : Statement (.takeArrival sender id) := of_neither rfl rfl
theorem dropArrival (sender : Station) (id : EditId) (reason : Byte) :
    Statement (.dropArrival sender id reason) := of_neither rfl rfl
theorem queryArrival (sender : Station) (id : EditId) : Statement (.queryArrival sender id) := of_neither rfl rfl
theorem outcomeArrival (sender : Station) (id : EditId) (taken : Bool) :
    Statement (.outcomeArrival sender id taken) := of_neither rfl rfl
theorem dumpRequestArrival (sender requester : Station) :
    Statement (.dumpRequestArrival sender requester) := of_neither rfl rfl
theorem dumpBeginArrival (sender requester : Station) (header : Header) :
    Statement (.dumpBeginArrival sender requester header) := of_neither rfl rfl
theorem dumpDataArrival (sender requester : Station) (fragment : Byte) (records : List Colour) :
    Statement (.dumpDataArrival sender requester fragment records) := of_neither rfl rfl
theorem dumpEndArrival (sender requester : Station) (torn : Bool) (check : Half) :
    Statement (.dumpEndArrival sender requester torn check) := of_neither rfl rfl
theorem messageDiscarded (bytes : List Byte) : Statement (.messageDiscarded bytes) := of_neither rfl rfl
theorem transactionSelect : Statement (.transactionSelect) := of_neither rfl rfl
theorem transactionDeselect : Statement (.transactionDeselect) := of_neither rfl rfl
theorem readRequestIssue : Statement (.readRequestIssue) := of_neither rfl rfl
theorem idleGap : Statement (.idleGap) := of_neither rfl rfl

end Laws.WellFormedOperands

end Sys2Proof
end

