-- ==== Sys2Proof/Tests/Slice0.lean ====
section
/-! SUPPORT. The author's tests: ill-formed commands that the check refuses, worked numbers of the manual, one or two small steps
of each command, and for each statement of the obligations states and operands that meet its hypotheses. -/

namespace Sys2Proof.Tests

open Sys2Proof Sys2Proof.Machine

set_option Elab.async false

/-! ### Small states -/

/-- The state after a command. -/
def after (i : Instr) (s : State) : State :=
  match exec i s with
  | .next t => t
  | .fault _ | .refused _ => s

/-- A geometry with L, N, W and H at the least values of R174: P = 2048, shortening limit 896. -/
def geometry : Geometry := ⟨5, 128, 16, 16, 8, 0, 0, 64, 32, 0, 64⟩

/-- Station 5 at frame 5000 in a role, with a valid wall state. -/
def station (r : Role) : State :=
  { State.reset with
    cfg := { Geometry.record geometry with frozen := true }
    timer := { Timer.reset with running := true, frame := 5000 }
    ctl := { RoleControl.reset with role := r }
    wall := { WallState.default with valid := true }
    bus := { Bus.reset with gapSeen := true } }

/-- The port in the command phase. -/
def selected (s : State) : State := { s with port := ⟨.command, none⟩ }

/-- A reception in progress. -/
def hearing (s : State) : State := { s with bus := { s.bus with attempt := some (.receiving ⟨5000, 10⟩ true) } }

/-- A peer in a state, last heard as MEMBER. -/
def peer (st : PeerState) : Peer :=
  { Peer.cleared Capture.empty with state := st, misses := 2, reported := some ⟨.member, true, 0, 4999⟩ }

/-- An entry of the Peer Table is put in. -/
def withPeer (n : Nat) (p : Peer) (s : State) : State := { s with peers := s.peers.setIfInBounds n p }

/-- An entry of a proposer with a target, held in a role and state. -/
def entry (id : EditId) (takeFrame : FrameNo) (t : Target) (h : Holding) (st : EditState) : EditEntry :=
  { id := id, takeFrame := takeFrame, target := t, staged := List.replicate t.reservation none, received := some [],
    holding := h, state := st, proposed := some true, voters := some [2], pendingVoters := some [2], cursor := none,
    queryTries := some 1, queryWait := none, late := false, deferred := false, owed := none }

/-- A beacon of a MEMBER of the own geometry. -/
def beacon : Beacon := ⟨3, 5000, 0, true, 128, 16, 4999, 20, true⟩

/-- A beacon of another geometry. -/
def strange : Beacon := { beacon with lines := 17 }

/-- The header of a dump. -/
def header : Header := ⟨4990, 7, 1, 2, 3, false⟩

/-- A transmitted attempt. -/
def sending (src : Source) (m : Message) (number : Nat) (s : State) : State :=
  { s with bus := { s.bus with attempt := some (.transmitting ⟨src, m, number, ⟨5000, 0⟩, true, false⟩) } }

/-- A waiting requester context. -/
def waiting (st : RequesterState) (tries : Nat) : Requester :=
  { Requester.reset with
    state := st, tries := tries, askWait := some 1, receiveWait := some 1, retryWait := some 1, responder := some 2 }

/-- The requester context is put in. -/
def requesting (r : Requester) (s : State) : State := s.setReq r

theorem hears_hearing {s : State} (h : s.ctl.role.receives = true) : (hearing s).hears := ⟨h, _, _, rfl⟩

theorem no_entries {s : State} (h : s.edit.table = tabulate 16 fun _ => none) (k : Nat) : s.entryAt k = none := by
  by_cases hk : k < 16
  · simp [State.entryAt, h, hk]
  · exact State.entryAt_of_le (by omega)

theorem alone_of_cleared {s : State} (h : s.peers = tabulate 32 fun _ => Peer.cleared Capture.empty) : s.alone := by
  intro n p hp
  rw [h, tabulate_getElem?] at hp
  split at hp
  · cases hp; rfl
  · cases hp

theorem peers_reset_state {n : Nat} {p : Peer} (h : (tabulate 32 fun _ => Peer.cleared Capture.empty)[n]? = some p) :
    p = Peer.cleared Capture.empty := by
  rw [tabulate_getElem?] at h
  split at h
  · cases h; rfl
  · cases h

theorem station_peerAt {r : Role} {n : Nat} {p : Peer} (h : (station r).peerAt n = some p) :
    p = Peer.cleared Capture.empty := peers_reset_state (State.peerAt_lt h).2.2

/-! ### Ill-formed commands are refused -/

theorem wf_refuses_an_empty_frame : (Instr.status []).wf = false := by decide
theorem wf_refuses_a_short_frame : (Instr.join [0x03, 0, 0, 1]).wf = false := by decide
theorem wf_refuses_a_frame_of_another_row : (Instr.leave (Request.frame .join)).wf = false := by decide +kernel
theorem wf_refuses_a_long_frame : (Instr.readEvent (Request.frame .readEvent ++ [0])).wf = false := by decide +kernel
theorem wf_accepts_a_frame_of_no_command : (Instr.reset [0x99, 0, 0, 1, 2]).wf = true := by decide
theorem wf_accepts_a_whole_frame : (Instr.submitPan (Request.frame (.submitPan 4 1 2))).wf = true := by decide +kernel
theorem wf_refuses_an_order_with_a_piece_missing : (Instr.frameStart FrameWork.all.tail).wf = false := by decide
theorem wf_refuses_an_order_with_a_piece_twice :
    (Instr.founding (.beaconRenewal :: FrameWork.all.tail)).wf = false := by decide
theorem wf_refuses_applications_before_the_dump :
    (Instr.retryWaitExpiry (.applications :: FrameWork.all.erase .applications)).wf = false := by decide
theorem wf_refuses_the_wait_before_promotion :
    (Instr.askWaitExpiry (.foundingWait :: FrameWork.all.erase .foundingWait)).wf = false := by decide
theorem wf_refuses_a_hand_over_before_its_adopt :
    (Instr.receiveWaitExpiry (.roleAdopt :: FrameWork.all.erase .roleAdopt)).wf = false := by decide
theorem wf_refuses_a_renumber_before_its_adopt :
    (Instr.foundingWaitExpiryAlign (.editRenumber :: FrameWork.all.erase .editRenumber)).wf = false := by decide
theorem wf_refuses_an_align_before_the_drop :
    (Instr.foundingWaitExpiryAlign
      (.frameTimer :: .roleAdopt :: .editRenumber :: FrameWork.all.drop 3)).wf = false := by decide
theorem wf_refuses_the_wait_between_the_hand_overs :
    (Instr.frameStart (.frameTimer :: .editRenumber :: .promotion :: .foundingWait :: .roleAdopt
      :: (FrameWork.all.drop 3).filter fun w => w != .promotion && w != .foundingWait)).wf = false
    ∧ (Instr.frameStart (.promotion :: .foundingWait
      :: FrameWork.all.filter fun w => w != .promotion && w != .foundingWait)).wf = true := by decide
theorem wf_refuses_a_read_back_longer_than_a_message :
    (Instr.attemptCompletion ⟨List.replicate 30 0, .void⟩).wf = false
    ∧ (Instr.attemptCompletion ⟨List.replicate 29 0, .void⟩).wf = true := by decide
theorem wf_refuses_doubt_before_the_query_waits :
    (Instr.queryWaitExpiry ⟨1, 2⟩ (.goInDoubt :: FrameWork.all.erase .goInDoubt)).wf = false := by decide
theorem wf_refuses_a_peer_beyond_31 : (Instr.peerSilent 32 FrameWork.all).wf = false := by decide
theorem wf_accepts_the_default_order : (Instr.peerSilent 31 FrameWork.all).wf = true := by decide
theorem wf_refuses_a_line_past_every_frame : (Instr.fetchIssue 8190).wf = false := by decide
theorem wf_refuses_a_pixel_past_every_line : (Instr.activePixelScan 0 8191).wf = false := by decide
theorem wf_refuses_an_empty_rival : (Instr.attemptStart [[]]).wf = false := by decide
theorem wf_refuses_a_sender_beyond_31 : (Instr.takeArrival 32 ⟨1, 2⟩).wf = false := by decide
theorem wf_refuses_an_empty_fragment : (Instr.dataArrival 1 ⟨1, 2⟩ 0 []).wf = false := by decide
theorem wf_refuses_six_records :
    (Instr.dumpDataArrival 1 5 0 (List.replicate 6 Colour.black)).wf = false := by decide
theorem wf_refuses_a_corrupt_discard : (Instr.messageDiscarded [0, 1, 2]).wf = false := by decide
theorem wf_refuses_a_good_discard :
    (Instr.messageDiscarded ((Message.take ⟨1, 2⟩).bytes 1)).wf = false := by decide +kernel

/-! ### Worked numbers of the manual -/

theorem test_no_word_spells_a_command : decodeTableWord 8 3 = none := rfl
theorem test_check_value_of_the_grey_ramp : checkValue 0 [greyRamp 0, greyRamp 1, greyRamp 2] = 129 := by decide
theorem test_frame_difference_wraps : frameDiff 2 4294967294 = 4 ∧ laterThan 2 4294967294 = true := by decide
theorem test_output_scales_and_truncates :
    scaleComponent 255 1000 = 1000 ∧ scaleComponent 254 1000 = 996 ∧ scaleComponent 127 1000 = 500
    ∧ scaleComponent 0 1000 = 3 ∧ scaleComponent 3 1023 = 15 ∧ scaleComponent 0 1023 = 3 := by decide
theorem test_wall_error_counts_the_station : wallError [120, 90, -30] = 45 := by decide
theorem test_ranges_19_and_20 :
    Target.conflicts (.palette 10 10 0) (.palette 19 22 0) = true
    ∧ Target.conflicts (.palette 10 10 0) (.palette 20 21 0) = false := by decide

/-- The geometry of the manual's examples: P = 687500, shortening limit 26400. -/
def panel : ConfigRecord :=
  Geometry.record ⟨3, 1100, 625, 1024, 600, 1024, 0, 4096, 1200, 0, 4096⟩

theorem test_adopt_forms :
    adoptForm panel 1375510 = (-510, 3) ∧ adoptForm panel 500000 = (187500, 2) ∧ adoptForm panel 687500 = (0, 2)
    ∧ adoptForm panel (4294967296 * 687500 - 100) = (100, 1) := by decide +kernel
theorem test_offsets_of_4_3 :
    offsetValue panel ⟨4000, 191000⟩ ⟨4000, 190900⟩ = .value 100
    ∧ offsetValue panel ⟨3999, 687400⟩ ⟨4000, 50⟩ = .value (-150)
    ∧ offsetValue panel ⟨10, 300⟩ ⟨2000000, 300⟩ = .farAhead := by decide +kernel
theorem test_addresses_of_9_3 :
    readAddress panel 480 0 0 0 = 1504 ∧ readAddress panel 400 0 1023 0 = 2447
    ∧ readAddress panel 0 1000 0 599 = 399 * 4096 + 1024 := by decide +kernel
theorem test_rank_is_dominant_first :
    dominates ((Message.take ⟨7, 0⟩).bytes 7) ((Message.beacon beacon).bytes 2) = true
    ∧ dominates ((Message.take ⟨7, 0⟩).bytes 7) ((Message.take ⟨2, 0⟩).bytes 2) = false := by decide +kernel

/-- The queue of 10.6, 31 entries long, after the five postings. -/
theorem test_queue_at_its_limit :
    let older : List Event := List.replicate 31 ⟨.peerLive, 0, none, none, none, none, false⟩
    let e (k : EventKind) : Event := ⟨k, 9, none, none, none, none, false⟩
    [EventKind.renumbered, .lockLost, .editDropped, .editDropped, .roleChanged].foldl (fun q k => joinQueue q (e k)) older
      = older ++ [{ e .renumbered with overrun := true }] := by decide +kernel

/-- The bytes of a frame and of a message are those of 10.7: codes, lengths, order and the frame check. -/
theorem test_frames_are_spelled_as_10_7 :
    Request.frame (.submitPan 4 300 2) = commandFrame 0x11 [4, 0x01, 0x2C, 0, 2]
    ∧ (Request.frame (.submitPan 4 300 2)).take 8 = [0x11, 0, 5, 4, 0x01, 0x2C, 0, 2]
    ∧ ((Message.take ⟨6, 11⟩).bytes 6).take 5 = [0x06, 0x01, 2, 6, 11]
    ∧ ((Message.accept ⟨6, 11⟩).bytes 9).take 5 = [0x49, 0x20, 2, 6, 11]
    ∧ frameCheck [0x31, 0x32, 0x33, 0x34, 0x35, 0x36, 0x37, 0x38, 0x39] = 0x29B1 := by decide +kernel

theorem test_payload_lengths_of_10_7 :
    (station .member).statusPayload.length = 14 ∧ (peer .live).payload.length = 48
    ∧ (entry ⟨2, 40⟩ 5010 (.palette 0 100 0) .voter .accepted).payload.length = 37
    ∧ (⟨.stale, 0, none, none, none, none, true⟩ : Event).payload = [13, 16, 0, 0, 0, 0, 0, 0, 0, 0, 0] := by
  decide +kernel

/-- Two pixel clocks after a JOIN: the fetch of line 1 is issued and asks for its first pixel, then the scan goes on. -/
theorem test_pixel_clocks_fetch_the_next_line :
    let s := (station .member).tick
    s.pixel.fetch = some ⟨.a, 1, 0⟩ ∧ s.pixel.request = some 64 ∧ s.timer.pixel = 0
    ∧ s.tick.pixel.request = some 65 ∧ s.tick.timer.pixel = 1 := by decide +kernel

/-- The member of 2.11. -/
def worked : State :=
  (((({ station .member with cfg := { (station .member).cfg with station := 6 } }.putEntry 0
    (some (entry ⟨2, 40⟩ 5010 (.palette 0 100 0) .voter .accepted))).putEntry 1
    (some { entry ⟨6, 11⟩ 5012 (.pan 300 0) .own .sending with proposed := some false, owed := some ⟨.propose, 0⟩ })).putEntry 2
    (some (entry ⟨9, 7⟩ 5020 (.palette 200 56 0) .voter .collecting))))

/-- The four arrivals of 2.11. -/
def workedEnd : State :=
  [Instr.proposeArrival 4 ⟨4, 3⟩ 5008 (.pan 100 0), .proposeArrival 5 ⟨5, 1⟩ 5015 (.palette 90 20 0),
    .proposeArrival 1 ⟨1, 250⟩ 5002 (.level 200), .proposeArrival 9 ⟨9, 7⟩ 5030 (.palette 200 60 0),
    .proposeArrival 9 ⟨9, 7⟩ 5030 (.palette 200 50 0)].foldl (fun s i => after i (hearing s)) worked

theorem test_admission_of_2_11 :
    (workedEnd.entries.map fun x => (x.1, x.2.id, x.2.state, x.2.owed.map (·.kind)))
      = [(0, ⟨2, 40⟩, .accepted, none), (1, ⟨4, 3⟩, .accepted, some .accept), (2, ⟨9, 7⟩, .collecting, none)]
    ∧ workedEnd.poolFree = 874
    ∧ (workedEnd.edit.refusals.map fun r => (r.id, r.reason)) = [(⟨5, 1⟩, .conflict), (⟨1, 250⟩, .lead)]
    ∧ (workedEnd.events.map fun e => (e.kind, e.id, e.reason))
      = [(.editDropped, some ⟨6, 11⟩, some .conflict), (.editDropped, some ⟨9, 7⟩, some .superseded)] := by
  decide +kernel

/-! ### Hypotheses that are met: the control port and the resets -/

theorem witness_EmptyQueuePassesOnePixelClock :
    State.reset.pending = [] ∧ State.reset.timer.running = false
    ∧ (let s := ((station .member).scanTo 3 5).tick
       s.timer.running = true ∧ s.clockOwed = false ∧ s.nextPosition = some (3, 6))
    ∧ (let s := (station .member).scanTo 15 127
       s.timer.running = true ∧ s.clockOwed = false ∧ s.nextPosition = none)
    ∧ (station .member).clockOwed = true ∧ ((station .member).scanTo 3 5).clockOwed = true
    ∧ ((station .member).scanTo 3 5).tick.timer.pixel = 5 := by decide +kernel

theorem witness_ResetsLoadTheResetValues :
    readCommandFrame (Request.frame .reset) = some .reset ∧ (selected (station .member)).port.phase = .command := by
  decide +kernel

theorem witness_TransactionsFollowThePhaseOfThePort :
    State.reset.port.phase = .idle ∧ (selected State.reset).port.phase ≠ .idle
    ∧ (Instr.status []).controlFrame = some []
    ∧ (after (.status (Request.frame .status)) (selected State.reset)).port.phase = .response
    ∧ (after .powerOnReset (selected State.reset)).port.phase = .held := by decide +kernel

/-- The command phase, the response phase up to the frame's end and past it, and an idle port. -/
theorem test_data_out_carries_the_response_frame :
    let s := after (.submitPan (Request.frame (.submitPan 4 1 2))) (selected (station .align))
    s.port.response = some ⟨.refused, some .notMember, []⟩ ∧ (selected State.reset).dataOut 9 = some 0
    ∧ s.dataOut 1 = some 4 ∧ s.dataOut 2 = some 0 ∧ s.dataOut 6 = some 0 ∧ State.reset.dataOut 0 = none := by
  decide +kernel

theorem witness_FramesThatFailTheChecksAreRefused :
    ([] : List Byte).length < 65536 ∧ requiredLength 0x10 8 ∧ requiredLength 0x10 1028 ∧ ¬ requiredLength 0x10 4
    ∧ (readCommandFrame (Request.frame (.submitPalette 4 0 1 [greyRamp 9]))).isSome = true
    ∧ readCommandFrame [0x01, 0, 0, 1, 2] = none ∧ (selected State.reset).port.phase = .command := by
  refine ⟨by decide, ⟨1, by decide⟩, ⟨256, by decide⟩, ?_, by decide +kernel, by decide +kernel, rfl⟩
  rintro ⟨k, h1, _, h3⟩
  omega

theorem witness_ReadsReportTheStateAndChangeNothing :
    (selected (station .member)).port.phase = .command
    ∧ readCommandFrame (Request.frame .status) = some .status
    ∧ (∀ i ∈ [(0 : Byte), 31, 32], readCommandFrame (Request.frame (.readPeer i)) = some (.readPeer i))
    ∧ (∀ i ∈ [(0 : Byte), 15, 16], readCommandFrame (Request.frame (.readEdit i)) = some (.readEdit i))
    ∧ readCommandFrame (Request.frame (.readPalette 255)) = some (.readPalette 255)
    ∧ (station .member).wall.palette[255]? = some (greyRamp 255) := by decide +kernel

theorem witness_ReadsReportTheEntries :
    (let s := selected (withPeer 31 (peer .live) (station .member))
     s.peers[(31 : Byte).toNat]? = some (peer .live) ∧ (31 : Byte) ≠ s.cfg.station ∧ (peer .live).state ≠ .absent
     ∧ s.peers[(5 : Byte).toNat]? = some (Peer.cleared Capture.empty) ∧ (5 : Byte) = s.cfg.station
     ∧ s.peers[(0 : Byte).toNat]? = some (Peer.cleared Capture.empty) ∧ (Peer.cleared Capture.empty).state = .absent)
    ∧ (let e := { entry ⟨2, 40⟩ 5010 (.palette 0 256 0) .voter .collecting with received := some [0, 51] }
       let s := selected ((station .member).putEntry 15 (some e))
       s.entryAt (15 : Byte).toNat = some e ∧ s.entryAt (0 : Byte).toNat = none
       ∧ (∀ j, j < 56 → (BitVec.ofNat 56 (1 + 2 ^ 51)).getLsbD j = decide (j ∈ e.received.getD []))
       ∧ (∀ j, j < 32 → (4 : BitVec 32).getLsbD j = decide (BitVec.ofNat 8 j ∈ e.voters.getD []))
       ∧ (e.payload.drop 18).take 15 = [8, 0, 0, 0, 0, 0, 1, 0, 0, 0, 4, 0, 0, 0, 4]) := by decide +kernel

theorem witness_ReadEventRemovesTheHead :
    readCommandFrame (Request.frame .readEvent) = some .readEvent
    ∧ (selected (station .member)).port.phase = .command ∧ (selected (station .member)).events = []
    ∧ ((selected (station .member)).post .stale).events = [⟨.stale, 5000, none, none, none, none, false⟩] := by
  decide +kernel

/-- A geometry with every value at the top of its range, and one with H beyond N − 2. -/
def widest : Geometry := ⟨31, 8191, 4095, 8175, 4093, 0, 0, 1, 1, 0, 1⟩

theorem witness_ConfigureTestsThenReplacesTheRecord :
    readCommandFrame (Request.frame (.configure widest)) = some (.configure widest)
    ∧ (selected (station .listen)).cfg.frozen = true
    ∧ (let s := { station .listen with cfg := Geometry.record geometry }
       s.cfg.frozen = false ∧ s.ctl.role ≠ .offline)
    ∧ State.reset.cfg.frozen = false ∧ State.reset.ctl.role = .offline
    ∧ widest.inRange = true ∧ { widest with height := 4094 }.inRange = false
    ∧ geometry.inRange = true ∧ { geometry with lineLength := 127 }.inRange = false
    ∧ { geometry with width := 113 }.inRange = false := by decide +kernel

/-- A station with a valid record, before its first JOIN. -/
def configured : State := after (.configure (Request.frame (.configure geometry))) State.reset

theorem witness_JoinEntersListenWithAFrozenRecord :
    readCommandFrame (Request.frame .join) = some .join ∧ (selected (station .align)).ctl.role ≠ .offline
    ∧ (selected (station .align)).ctl.role ≠ .detached
    ∧ State.reset.ctl.role = .offline ∧ State.reset.cfg.valid = false
    ∧ configured.ctl.role = .offline ∧ configured.cfg.valid = true ∧ configured.timer.running = false
    ∧ configured.timer.lock ≠ .locked
    ∧ (station .detached).ctl.role = .detached ∧ (station .detached).cfg.valid = true
    ∧ (station .detached).timer.running = true := by decide +kernel

theorem witness_LeaveGoesOfflineOrToLeaving :
    readCommandFrame (Request.frame .leave) = some .leave ∧ (selected (station .listen)).port.phase = .command
    ∧ (station .leaving).ctl.role = .leaving ∧ (station .listen).ctl.role = .listen
    ∧ (station .align).ctl.role = .align ∧ (station .member).ctl.role = .member := by decide +kernel

theorem test_leave_drops_the_unsent_edit :
    (after (.leave (Request.frame .leave)) worked).entries.map (fun x => x.2.id) = [⟨2, 40⟩, ⟨9, 7⟩]
    ∧ ((after (.leave (Request.frame .leave)) worked).events.map fun e => (e.kind, e.reason))
      = [(.roleChanged, none), (.editDropped, some .left)] := by decide +kernel

/-! ### Submission -/

/-- The least SUBMIT-LEVEL: lead 4. -/
def submission : Submission := levelSubmission 4 9

/-- The row of it. -/
def submitRow : Instr := .submitLevel (Request.frame (.submitLevel 4 9))

theorem submits_level : submitRow.submits submission := ⟨4, 9, by decide +kernel, rfl⟩

theorem submits_the_others :
    (Instr.submitPalette (Request.frame (.submitPalette 4 255 1 [greyRamp 1]))).submits
      (paletteSubmission 4 255 1 [greyRamp 1])
    ∧ (Instr.submitPan (Request.frame (.submitPan 255 1 2))).submits (panSubmission 255 1 2)
    ∧ (Instr.submitBlank (Request.frame (.submitBlank 4 1))).submits (blankSubmission 4 1) :=
  ⟨⟨_, _, _, _, by decide +kernel, rfl⟩, ⟨_, _, _, by decide +kernel, rfl⟩, ⟨_, _, by decide +kernel, rfl⟩⟩

theorem witness_SubmitCreatesAnOwnEntry :
    submitRow.submits submission
    ∧ (let s := selected (station .member)
       s.port.phase = .command ∧ s.ctl.role = .member ∧ submission.inRange = true ∧ 4 ≤ submission.lead.toNat
       ∧ s.ownCount < 4 ∧ s.entries.length < 16 ∧ s.findEntry ⟨s.cfg.station, s.edit.sequence⟩ = none
       ∧ s.conflictHeld submission.target = false ∧ submission.target.reservation ≤ s.poolFree)
    ∧ (paletteSubmission 4 255 1 [greyRamp 1]).inRange = true ∧ (panSubmission 255 1 2).inRange = true
    ∧ (blankSubmission 4 1).inRange = true := ⟨submits_level, by decide +kernel⟩

/-- Four own entries; a LEVEL entry; an exhausted staging pool. -/
def fourOwn : State :=
  selected ((List.range 4).foldl (fun s i => s.putEntry i
    (some (entry ⟨5, BitVec.ofNat 8 (100 + i)⟩ 5010 (.pan 0 0) .own .awaiting))) (station .member))
def levelHeld : State := selected ((station .member).putEntry 3 (some (entry ⟨9, 1⟩ 5010 (.level 1) .voter .accepted)))
def poolGone : State :=
  selected ((station .member).putEntry 0 (some (entry ⟨9, 1⟩ 5010 (.palette 200 1025 0) .voter .collecting)))

theorem no_conflict {s : State} {t : Target} (h : s.conflictHeld t = false) :
    ∀ k e, s.entryAt k = some e → e.target.conflicts t = false := by
  intro k e he
  rw [← Bool.not_eq_true]
  intro hc
  rw [State.conflictHeld_eq_true.2 ⟨k, e, he, hc⟩] at h
  cases h

theorem witness_SubmitIsRefusedByTheFirstFailingTest :
    submitRow.submits submission
    ∧ (selected (station .align)).ctl.role ≠ .member
    ∧ ¬ (4 ≤ (levelSubmission 3 9).lead.toNat) ∧ (blankSubmission 4 2).inRange = false
    ∧ (paletteSubmission 4 255 2 [greyRamp 1, greyRamp 2]).inRange = false
    ∧ (paletteSubmission 4 0 2 [greyRamp 1]).inRange = false
    ∧ ¬ (fourOwn.ownCount < 4) ∧ fourOwn.ctl.role = .member
    ∧ levelHeld.ownCount < 4 ∧ levelHeld.entries.length < 16 ∧ levelHeld.findEntry ⟨5, 0⟩ = none
    ∧ (∃ k e, levelHeld.entryAt k = some e ∧ e.target.conflicts submission.target = true)
    ∧ (let x := paletteSubmission 4 0 1 [greyRamp 1]
       x.inRange = true ∧ poolGone.ownCount < 4 ∧ poolGone.entries.length < 16 ∧ poolGone.findEntry ⟨5, 0⟩ = none
       ∧ (∀ k e, poolGone.entryAt k = some e → e.target.conflicts x.target = false)
       ∧ poolGone.poolFree < x.target.reservation) := by
  refine ⟨submits_level, by decide +kernel, by decide, by decide, by decide, by decide, by decide +kernel, rfl,
    by decide +kernel, by decide +kernel, by decide +kernel, ⟨3, _, rfl, by decide⟩, by decide, by decide +kernel,
    by decide +kernel, by decide +kernel, no_conflict (by decide +kernel), by decide +kernel⟩

/-! ### Frame starts -/

theorem witness_FrameStartAdvancesTheFrameAndLatches :
    (station .member).timer.running = true ∧ State.reset.timer.running = false
    ∧ (after (.frameStart FrameWork.all) (station .member)).timer.frame = 5001
    ∧ (after (.frameStart FrameWork.all) (station .member)).pixel.latched.showing = true := by decide +kernel

/-- A member, its strike and tie counts at a value, with the verdicts of two peers. -/
def judged (a b : Verdict) (n : Nat) : State :=
  let s := withPeer 0 { peer .live with verdict := a } (withPeer 31 { peer .live with verdict := b } (station .member))
  { s with ctl := { s.ctl with strikes := n, ties := n } }

/-- The peers with a verdict, as O15 counts them. -/
def counted (s : State) (v : Verdict) : Nat :=
  ((List.range 32).filter fun n =>
    n != s.cfg.station.toNat && decide ((s.peers[n]?.map (·.verdict)) = some v)).length

theorem witness_FrameStartCountsTheVerdicts :
    (counted (judged .differ .differ 0) .agree = 0 ∧ counted (judged .differ .differ 1) .differ = 2
      ∧ (judged .differ .differ 0).verdictWork.ctl.strikes = 1
      ∧ (judged .differ .differ 1).verdictWork.ctl.role = .align
      ∧ ((judged .differ .differ 1).verdictWork.events.map (·.kind)) = [.stale, .roleChanged])
    ∧ (counted (judged .differ .none 1) .differ = 1 ∧ (judged .differ .none 1).verdictWork.ctl.split = .fired
      ∧ ((judged .differ .none 1).verdictWork.events.map (·.kind)) = [.versionSplit]
      ∧ (judged .differ .none 0).verdictWork.ctl.ties = 1)
    ∧ (counted (judged .agree .none 1) .differ = 0 ∧ (judged .agree .none 1).verdictWork.ctl.strikes = 0)
    ∧ (counted (judged .differ .agree 1) .differ = 1 ∧ counted (judged .differ .agree 1) .agree = 1
      ∧ (judged .differ .agree 1).verdictWork.ctl.ties = 0) := by decide +kernel

theorem witness_FrameStartPromotesAndTurns :
    (let s := { station .align with timer := { (station .align).timer with lock := .locked, lockCount := 8 } }
     s.ctl.role = .align ∧ s.wall.valid = true ∧ s.ctl.stale = false ∧ s.catchUp.req.state = .idle
     ∧ s.timer.lock = .locked ∧ s.promotion.ctl.role = .member)
    ∧ (station .align).promotion.ctl.role = .align
    ∧ (station .listen).bus.attempt = none ∧ (station .listen).listenToAlign.catchUp.req.state = .asking
    ∧ worked.renumberRole.ctl.role = .align ∧ (station .align).renumberRole.ctl.stale = true
    ∧ (station .leaving).renumberRole.ctl.role = .leaving
    ∧ ((worked.dropAll .renumbered).events.map fun e => (e.kind, e.id))
      = [(.editDropped, some ⟨2, 40⟩), (.editDropped, some ⟨6, 11⟩), (.editDropped, some ⟨9, 7⟩)] := by decide +kernel

theorem witness_AdoptTakesEffectAndBeaconsRenew :
    (let p := { peer .live with
        capture := ⟨1, ⟨5000, 0⟩, true⟩, offset := some ⟨.value 3, ⟨5000, 0⟩, ⟨5000, 0⟩, true⟩ }
     let s := withPeer 2 p (hearing (station .align))
     let u := { s with timer := { s.timer with advance := some 3 }, bus := { s.bus with startValid := true } }
     let t := u.advanceFrame
     s.timer.advance = none ∧ u.timer.advance ≠ none ∧ t.timer.frame = 5003 ∧ t.timer.advance = none
     ∧ t.bus.startValid = false ∧ t.bus.attempt = some (.receiving ⟨5000, 10⟩ false)
     ∧ (t.peers[2]?.map fun q => (q.capture.valid, q.offset.map (·.fresh))) = some (false, some false))
    ∧ (station .listen).beaconRenewal.bus.beacon = none ∧ (station .member).bus.attempt = none
    ∧ (station .member).beaconRenewal.bus.beacon = some ⟨.beacon, 0⟩
    ∧ (let s := sending .beacon (.beacon beacon) 2 (station .leaving)
       s.bus.attempt = some (.transmitting ⟨.beacon, .beacon beacon, 2, ⟨5000, 0⟩, true, false⟩)
       ∧ s.beaconRenewal.bus.renewal = true ∧ s.beaconRenewal.bus.beacon = none) := by decide +kernel

theorem witness_WallValuesChangeOnlyAtFrameStarts :
    Instr.idleGap.isReset = false ∧ Instr.idleGap.frameOrder = none
    ∧ exec .idleGap (station .member) = .next (after .idleGap (station .member)) := ⟨rfl, rfl, rfl⟩

/-- A LIVE peer that has missed two frames. -/
def quiet : State := withPeer 31 (peer .live) (station .member)

theorem witness_ThreeMissesMakeAPeerSilent :
    quiet.timer.running = true ∧ (31 : Station) ≠ quiet.cfg.station ∧ quiet.peers[(31 : Station).toNat]? = some (peer .live)
    ∧ (peer .live).state = .live ∧ (peer .live).seen = false ∧ (peer .live).misses = 2
    ∧ ((after (.peerSilent 31 FrameWork.all) quiet).events.map fun e => (e.kind, e.station)) = [(.peerSilent, some 31)] := by
  decide +kernel

/-- A station whose founding wait stands at a value. -/
def waited (r : Role) (n : Nat) (s : State) : State := { s with ctl := { s.ctl with role := r, foundingWait := n } }

theorem witness_FoundingEstablishesTheDefaultState :
    let s := waited .listen 31 (station .listen)
    s.timer.running = true ∧ s.ctl.role = .listen ∧ s.ctl.foundingWait = 31
    ∧ (∀ n p, s.peerAt n = some p → ¬ (p.state = .live ∧ p.reportedRole = some .member))
    ∧ s.alone ∧ (∀ i, s.entryAt i = none) ∧ s.catchUp.req.state = .idle :=
  ⟨rfl, rfl, rfl, fun _ _ h => by rw [station_peerAt (r := .listen) h]; decide, alone_of_cleared rfl, no_entries rfl, rfl⟩

theorem witness_AlignWaitExpiryMakesAMemberOrAListener :
    let s := waited .align 31 (station .align)
    s.timer.running = true ∧ s.ctl.role = .align ∧ s.ctl.foundingWait = 31 ∧ s.alone
    ∧ s.catchUp.req.state ≠ .applyPending ∧ s.wall.valid = true ∧ s.timer.lock ≠ .locked
    ∧ ({ s with wall := { s.wall with valid := false } } : State).wall.valid = false
    ∧ ({ s with wall := { s.wall with valid := false } } : State).alone :=
  ⟨rfl, rfl, rfl, alone_of_cleared rfl, by decide, rfl, by decide, rfl, alone_of_cleared rfl⟩

/-- An IN-DOUBT entry whose query wait is at its last frame. -/
def doubting (tries : Nat) : EditEntry :=
  { entry ⟨9, 1⟩ 4999 (.level 3) .voter .inDoubt with queryTries := some tries, queryWait := some 1 }

/-- The station that holds it at index 15. -/
def doubtful (tries : Nat) : State := (station .member).putEntry 15 (some (doubting tries))

theorem witness_QueryWaitExpiryAsksAgainOrGivesUp :
    (∀ tries, (doubtful tries).alone) ∧ (doubtful 1).timer.running = true
    ∧ (doubtful 1).entryAt 15 = some (doubting 1) ∧ (doubtful 2).entryAt 15 = some (doubting 2)
    ∧ (doubting 1).id = ⟨9, 1⟩ ∧ (doubting 1).state = .inDoubt ∧ (doubting 1).deferred = false
    ∧ (doubting 1).queryWait = some 1 ∧ (doubting 1).queryTries = some 1 ∧ (doubting 2).queryTries = some 2
    ∧ ((after (.queryWaitExpiry ⟨9, 1⟩ FrameWork.all) (doubtful 2)).events.map fun e => (e.kind, e.reason))
      = [(.editDropped, some .noOutcome)] := by
  refine ⟨fun _ => alone_of_cleared rfl, ?_⟩
  decide +kernel

theorem witness_RequesterWaitsExpireAsFailedTries :
    (∀ st tries, let s := requesting (waiting st tries) (waited .align 30 (station .align))
      s.timer.running = true ∧ s.ctl.role = .align ∧ s.ctl.foundingWait < 31
      ∧ (∀ n p, s.peerAt n = some p → p.state ≠ .live) ∧ s.catchUp.req.state = st ∧ s.catchUp.req.askWait = some 1
      ∧ s.catchUp.req.receiveWait = some 1 ∧ s.catchUp.req.retryWait = some 1 ∧ s.catchUp.req.tries = tries)
    ∧ 2 + 1 < 4 ∧ 4 ≤ 3 + 1
    ∧ (after (.askWaitExpiry FrameWork.all)
        (requesting (waiting .asking 3) (waited .align 30 (station .align)))).catchUp.req.state = .retryWait
    ∧ (after (.receiveWaitExpiry FrameWork.all)
        (requesting (waiting .receiving 2) (waited .align 30 (station .align)))).catchUp.req.state = .asking
    ∧ (after (.retryWaitExpiry FrameWork.all)
        (requesting (waiting .retryWait 4) (waited .align 30 (station .align)))).catchUp.req.tries = 0 := by
  refine ⟨fun st tries => ⟨rfl, rfl, Nat.lt_succ_self 30, fun _ _ h => ?_, rfl, rfl, rfl, rfl, rfl⟩, by decide +kernel⟩
  rw [station_peerAt (r := .align) h]
  decide

theorem witness_ApplicationWritesTheTargetAndRaisesTheVersion :
    let e := { entry ⟨9, 1⟩ 5000 (.palette 255 1 0) .voter .taken with staged := [some (greyRamp 1)] }
    e.target = .palette 255 1 0 ∧ 0 < (1 : Half).toNat ∧ (255 : Byte).toNat + 0 < 256 ∧ e.staged[0]? = some (some (greyRamp 1))
    ∧ ((station .member).applyEntry 0 e).wall.palette[255]? = some (greyRamp 1)
    ∧ (entry ⟨9, 1⟩ 5000 (.pan 1 2) .voter .taken).target = .pan 1 2
    ∧ (entry ⟨9, 1⟩ 5000 (.pan 1 2) .voter .taken).target.isPalette = false := by decide +kernel

/-- Three TAKEN entries: one due, one late, one not yet due. -/
def due (s : State) : State :=
  ((s.putEntry 0 (some (entry ⟨9, 1⟩ 5000 (.level 7) .voter .taken))).putEntry 14
    (some { entry ⟨2, 1⟩ 4990 (.pan 1 2) .voter .taken with late := true })).putEntry 15
    (some (entry ⟨8, 1⟩ 5001 (.blank true) .voter .taken))

theorem witness_DueEntriesAreAppliedOrDeferred :
    (let s := due (station .member)
     s.catchUp.req.state = .idle ∧ frameDiff 5000 s.timer.frame ≤ 0 ∧ ¬ frameDiff 5001 s.timer.frame ≤ 0
     ∧ (s.applications.events.map (·.id)) = [some ⟨9, 1⟩, some ⟨2, 1⟩] ∧ s.applications.wall.level = 7
     ∧ s.applications.wall.panY = 2 ∧ s.applications.wall.blank = false)
    ∧ (let s := requesting (waiting .asking 0) (due (station .align))
       s.catchUp.req.state ≠ .idle ∧ s.applications.catchUp.req.missed = true ∧ s.applications.wall = s.wall
       ∧ (s.applications.entries.map fun x => (x.1, x.2.deferred)) = [(0, true), (14, true), (15, false)]) := by
  decide +kernel

/-- A dump whose frame is 4990 is ready to apply, with a deferred entry before it and one after it. -/
def applying (missed : Bool) : State :=
  requesting { waiting .applyPending 0 with header := some header, missed := missed }
    (((station .align).putEntry 0 (some { entry ⟨9, 1⟩ 4990 (.level 7) .voter .taken with deferred := true })).putEntry 1
      (some { entry ⟨2, 1⟩ 4991 (.pan 1 2) .voter .taken with deferred := true }))

theorem witness_DumpApplyAppliesTheDeferredEntries :
    (applying false).catchUp.req.state = .applyPending ∧ (applying true).catchUp.req.header = some header
    ∧ (station .align).catchUp.req.state ≠ .applyPending
    ∧ ((applying false).dumpApply.events.map fun e => (e.kind, e.id)) = [(.editTaken, some ⟨2, 1⟩), (.dumpDone, none)]
    ∧ (applying false).dumpApply.wall.level = 3 ∧ (applying false).dumpApply.wall.version = 8
    ∧ (applying false).dumpApply.catchUp.req.state = .idle ∧ (applying true).dumpApply.catchUp.req.state = .asking := by
  decide +kernel

theorem witness_FrameStartDeadlinesActOnTheirEntries :
    ((station .member).putEntry 15 (some (entry ⟨5, 1⟩ 5002 (.level 1) .own .awaiting))).entryAt 15
      = some (entry ⟨5, 1⟩ 5002 (.level 1) .own .awaiting)
    ∧ frameDiff 5002 5000 = 2 ∧ frameDiff 5003 5000 = 3 ∧ frameDiff 5016 5000 = 16 ∧ ¬ 0 < frameDiff 5000 5000 := by
  decide +kernel

/-- The waits of a query: falling, run out with a QUERY owed and with none, run out at the second try. -/
theorem witness_QueryWaitsRunOut :
    (doubtful 1).entryAt 15 = some (doubting 1) ∧ (doubting 1).state = .inDoubt ∧ (doubting 1).queryWait = some 1
    ∧ (doubting 1).queryTries = some 1 ∧ (doubting 2).queryTries ≠ some 1 ∧ (doubtful 1).bus.attempt = none
    ∧ ((doubtful 1).queryWaits.entries.map fun x => (x.2.queryTries, x.2.queryWait, x.2.owed))
      = [(some 2, some 8, some ⟨.query, 0⟩)]
    ∧ (((station .member).putEntry 0 (some { doubting 1 with owed := some ⟨.query, 3⟩ })).queryWaits.entries.map
        fun x => x.2.owed) = [some ⟨.query, 3⟩]
    ∧ ((sending (.entry 0) (.query ⟨9, 1⟩) 1
        ((station .member).putEntry 0 (some { doubting 1 with owed := some ⟨.query, 3⟩ }))).queryWaits.entries.map
        fun x => x.2.owed) = [some ⟨.query, 0⟩]
    ∧ (((station .member).putEntry 0 (some { doubting 1 with queryWait := some 2 })).queryWaits.entries.map
        fun x => x.2.queryWait) = [some 1]
    ∧ (doubtful 2).queryWaits.entries = [] ∧ (doubtful 2).queryWaits.edit.outcomes = [] := by decide +kernel

/-- The requester's waits: falling, run out, and a responder that is lost. -/
theorem witness_RequesterWaitsRunOut :
    (let s := requesting { waiting .asking 0 with askWait := some 2 } (station .align)
     s.catchUpWaits.catchUp.req.askWait = some 1 ∧ s.catchUpWaits.catchUp.req.tries = 0)
    ∧ (requesting (waiting .asking 3) (station .align)).catchUpWaits.catchUp.req.retryWait = some 64
    ∧ (requesting (waiting .retryWait 4) (station .align)).catchUpWaits.catchUp.req.state = .asking
    ∧ (let r := { waiting .receiving 0 with receiveWait := some 5 }
       (withPeer 2 (peer .live) (requesting r (station .align))).peerAt (2 : Station).toNat = some (peer .live)
       ∧ (withPeer 2 (peer .live) (requesting r (station .align))).catchUpWaits.catchUp.req.receiveWait = some 4
       ∧ (withPeer 2 (peer .incompatible) (requesting r (station .align))).catchUpWaits.catchUp.req.tries = 1) := by
  decide +kernel

/-- The founding wait: held at 0 by a LIVE member, counted, and run out in LISTEN and in ALIGN. -/
theorem witness_FoundingWaitRunsOut :
    (withPeer 2 (peer .live) (waited .align 31 (station .align))).waitWork.ctl.foundingWait = 0
    ∧ (waited .align 30 (station .align)).waitWork.ctl.foundingWait = 31
    ∧ (waited .listen 31 (station .listen)).waitWork.ctl.role = .member
    ∧ (waited .align 31 (station .align)).waitWork.ctl.role = .member
    ∧ ({ station .align with wall := { (station .align).wall with valid := false } } : State).alignExpiry.ctl.role
      = .listen
    ∧ (station .member).waitWork = station .member
    ∧ ∀ n p, (waited .align 31 (station .align)).peerAt n = some p →
        ¬ (p.state = .live ∧ p.reported.map (·.role) = some .member) := by
  refine ⟨by decide +kernel, by decide +kernel, by decide +kernel, by decide +kernel, by decide +kernel, rfl,
    fun _ _ h => ?_⟩
  rw [station_peerAt (r := .align) h]
  decide

/-! ### The tile bus -/

theorem witness_CommandFramesReadBack :
    (Request.submitPalette 4 0 1 [greyRamp 1]).sendable = true
    ∧ (Request.submitPalette 4 0 256 (List.replicate 256 Colour.black)).sendable = true
    ∧ (Request.submitPalette 4 0 0 []).sendable = false ∧ (Request.configure geometry).sendable = true := by decide +kernel

theorem witness_MessagesReadBack :
    (31 : Station).toNat < 32 ∧ (Message.data ⟨1, 2⟩ 51 [greyRamp 1]).sendable = true
    ∧ (Message.dumpData 1 0 (List.replicate 5 Colour.black)).sendable = true ∧ (Message.beacon beacon).sendable = true
    ∧ readMessage ((Message.beacon beacon).bytes 31) = .message 31 (.beacon beacon) := by decide +kernel

/-- A member that owes its beacon, and one whose responder owes a DUMP-BEGIN. -/
def owing : State := (station .member).oweBeacon
def offering : State :=
  (station .member).setResp { Responder.reset with state := .offering, requester := some 2, owed := some ⟨.dumpBegin, 1⟩ }

theorem witness_AttemptsBeginWithTheOfferedMessage :
    owing.bus.attempt = none ∧ owing.offered = some (.beacon, ⟨.beacon, 0⟩)
    ∧ owing.compose .beacon .beacon = some (.beacon owing.fillBeacon)
    ∧ (∃ r ∈ [(Message.take ⟨7, 0⟩).bytes 7],
        dominates r ((Message.beacon owing.fillBeacon).bytes owing.cfg.station) = true)
    ∧ (∀ r ∈ [(Message.dumpRequest 7).bytes 7],
        dominates r ((Message.beacon owing.fillBeacon).bytes owing.cfg.station) = false)
    ∧ offering.offered = some (.responder, ⟨.dumpBegin, 1⟩) ∧ (offering.compose .responder .dumpBegin).isSome = true
    ∧ (after (.attemptStart []) offering).catchUp.resp.windowOpen = true := by decide +kernel

/-- What the sources' messages carry, at the last fragments. -/
theorem witness_MessagesAreComposedFromTheirSources :
    (let s := (station .member).putEntry 15 (some { entry ⟨5, 0⟩ 5010 (.palette 0 6 0) .own .sending with
        cursor := some 1, staged := List.replicate 5 (some Colour.black) ++ [some (greyRamp 7)] })
     s.compose (.entry 15) .data = some (.data ⟨5, 0⟩ 1 [greyRamp 7])
     ∧ s.compose (.entry 15) .propose = some (.propose ⟨5, 0⟩ 5010 (.palette 0 6 0)))
    ∧ ((station .member).refuse ⟨2, 9⟩ .lead).compose .refusal .refuse = some (.refuse ⟨2, 9⟩ 13)
    ∧ (let s := (station .member).recordOutcome ⟨⟨5, 1⟩, false, some .deadline, some ⟨.drop, 0⟩⟩
       s.compose (.outcome ⟨5, 1⟩) .drop = some (.drop ⟨5, 1⟩ 2)
       ∧ s.compose (.outcome ⟨5, 1⟩) .outcome = some (.outcome ⟨5, 1⟩ false))
    ∧ offering.compose .responder .dumpBegin = some (.dumpBegin 2 ⟨5000, 0, 0, 0, 255, false⟩)
    ∧ (offering.setResp { offering.catchUp.resp with cursor := 51 }).compose .responder .dumpData
      = some (.dumpData 2 51 [greyRamp 255])
    ∧ offering.compose .responder .dumpEnd = some (.dumpEnd 2 false (checkValue 0 ((List.range 256).map greyRamp)))
    ∧ (station .member).compose .farewell .farewell = some (.farewell 5) := by decide +kernel

theorem witness_SchedulerOffersTheLowestRankFirst :
    owing.offered = some (.beacon, ⟨.beacon, 0⟩) ∧ (station .member).offered = none
    ∧ (owing.putEntry 3 (some { entry ⟨9, 1⟩ 5010 (.level 1) .own .taken with owed := some ⟨.take, 0⟩ })).offered
      = some (.entry 3, ⟨.take, 0⟩) := by decide +kernel

theorem witness_OfferableByTheRole :
    (station .listen).offerable ⟨.beacon, 0⟩ = false ∧ (station .align).offerable ⟨.take, 0⟩ = true
    ∧ (station .leaving).offerable ⟨.accept, 0⟩ = false ∧ (station .member).offerable ⟨.refuse, 0⟩ = true := by decide

/-- A beacon of the station in an attempt, after a number of abandoned messages. -/
def beaconing (number streak : Nat) : State :=
  let s := sending .beacon (.beacon beacon) number owing
  { s with bus := { s.bus with abandonStreak := streak } }

theorem witness_AttemptsEndDeliveredRetriedOrAbandoned :
    (beaconing 3 0).bus.attempt = some (.transmitting ⟨.beacon, .beacon beacon, 3, ⟨5000, 0⟩, true, false⟩)
    ∧ (beaconing 4 2).ctl.role.receives = true ∧ (beaconing 4 2).bus.abandonStreak + 1 < 4
    ∧ (beaconing 4 3).bus.abandonStreak + 1 = 4
    ∧ (after (.attemptCompletion ⟨[], .void⟩) (beaconing 4 2)).bus.beacon = none
    ∧ (after (.attemptCompletion ⟨[], .void⟩) (beaconing 3 3)).bus.beacon = some ⟨.beacon, 1⟩
    ∧ (after (.attemptCompletion ⟨[], .void⟩) (beaconing 4 3)).ctl.role = .detached := by decide +kernel

/-- What the other stations signal yields to a read-back fault, which makes the message void and is answered with an error. -/
theorem test_a_read_back_fault_voids_the_message :
    let m := (Message.beacon beacon).bytes 5
    let read := (m.take 4) ++ [0xFF]
    readBackFault m read = true ∧ readBackFault m m = false ∧ readBackFault m [0xFF] = false
    ∧ readBackFault m (m.set 28 0) = false
    ∧ (after (.attemptCompletion ⟨read, .heard⟩) (beaconing 1 0)).bus.beacon = some ⟨.beacon, 1⟩
    ∧ (after (.attemptCompletion ⟨read, .heard⟩) (beaconing 1 0)).bus.driven = .error
    ∧ (after (.attemptCompletion ⟨m, .void⟩) (beaconing 1 0)).bus.driven = .nothing
    ∧ (after (.attemptCompletion ⟨read, .heard⟩) (beaconing 4 3)).ctl.role = .detached
    ∧ (after (.attemptCompletion ⟨read, .heard⟩) (beaconing 4 3)).bus.driven = .error := by decide +kernel

/-- A refusal, an entry that owes DATA and an outcome entry that owes DROP. -/
def owingAll : State :=
  (((station .member).refuse ⟨2, 9⟩ .lead).recordOutcome ⟨⟨5, 1⟩, false, some .refused, some ⟨.drop, 2⟩⟩).putEntry 15
    (some { entry ⟨5, 0⟩ 5010 (.palette 0 6 0) .own .sending with owed := some ⟨.data, 2⟩ })

/-- A transmission of a source at its fourth attempt. -/
def fourth (src : Source) (m : Message) : Transmission := ⟨src, m, 4, ⟨5000, 0⟩, true, false⟩

theorem witness_VoidsAndAbandonmentsReachTheSource :
    owingAll.edit.refusals = [⟨⟨2, 9⟩, .lead, 0⟩] ∧ owingAll.bus.attempt = none
    ∧ ((owingAll.sourceVoided .refusal).edit.refusals.map (·.voids)) = [1]
    ∧ ((owingAll.sourceVoided (.entry 15)).entries.map fun x => x.2.owed) = [some ⟨.data, 3⟩]
    ∧ ((owingAll.sourceVoided (.outcome ⟨5, 1⟩)).edit.outcomes.map (·.owed)) = [some ⟨.drop, 3⟩]
    ∧ (owingAll.sourceAbandoned (fourth .refusal (.refuse ⟨2, 9⟩ 6))).edit.refusals = []
    ∧ ((owingAll.sourceAbandoned (fourth (.entry 15) (.data ⟨5, 0⟩ 0 []))).entries.map fun x => x.2.owed)
      = [some ⟨.data, 0⟩]
    ∧ ((owingAll.sourceAbandoned (fourth (.entry 15) (.take ⟨5, 0⟩))).entries.map fun x => x.2.owed) = [none]
    ∧ ((owingAll.sourceAbandoned (fourth (.outcome ⟨5, 1⟩) (.drop ⟨5, 1⟩ 0))).edit.outcomes.map (·.owed)) = [none]
    ∧ (let s := requesting (waiting .asking 2) (station .align)
       (s.sourceAbandoned (fourth .requester (.dumpRequest 5))).catchUp.req.owed = some ⟨.dumpRequest, 0⟩)
    ∧ (let s := requesting (waiting .asking 3) (station .align)
       (s.sourceAbandoned (fourth .requester (.dumpRequest 5))).catchUp.req.retryWait = some 64)
    ∧ (offering.sourceVoided .responder).catchUp.resp.owed = some ⟨.dumpBegin, 2⟩
    ∧ (offering.sourceAbandoned (fourth .responder (.dumpBegin 2 header))).catchUp.resp = Responder.reset := by
  decide +kernel

/-- An own palette and an own scalar entry whose PROPOSE is in an attempt. -/
def proposing (t : Target) : State :=
  sending (.entry 0) (.propose ⟨5, 0⟩ 5010 t) 1
    (withPeer 2 { peer .live with misses := 0 } ((station .member).putEntry 0
      (some { entry ⟨5, 0⟩ 5010 t .own .sending with owed := some ⟨.propose, 0⟩ })))

theorem witness_DeliveredMessagesLeaveTheirSources :
    (sending .farewell (.farewell 5) 1 (station .leaving)).bus.attempt
      = some (.transmitting ⟨.farewell, .farewell 5, 1, ⟨5000, 0⟩, true, false⟩)
    ∧ (after (.attemptCompletion ⟨[], .heard⟩) (sending .farewell (.farewell 5) 1 (station .leaving))).ctl.role = .offline
    ∧ (after (.attemptCompletion ⟨[], .heard⟩) (beaconing 1 0)).bus.startValid = true
    ∧ (after (.attemptCompletion ⟨[], .heard⟩) (sending .responder (.dumpBegin 2 header) 1 offering)).catchUp.resp.owed
      = some ⟨.dumpData, 0⟩
    ∧ (proposing (.palette 0 1 0)).entryAt 0
      = some { entry ⟨5, 0⟩ 5010 (.palette 0 1 0) .own .sending with owed := some ⟨.propose, 0⟩ }
    ∧ (Target.palette 0 1 0).isPalette = true ∧ (Target.level 0).isPalette = false
    ∧ (proposing (.level 0)).liveMembers = [2] := by decide +kernel

/-- An own entry of six records whose DATA at a cursor is in an attempt, with some voters pending. -/
def dataSent (cursor : Nat) (pending : List Station) : State :=
  sending (.entry 0) (.data ⟨5, 0⟩ (BitVec.ofNat 8 cursor) [Colour.black]) 1 ((station .member).putEntry 0
    (some { entry ⟨5, 0⟩ 5010 (.palette 0 6 0) .own .sending with
      cursor := some cursor, pendingVoters := some pending, owed := some ⟨.data, 0⟩ }))

/-- The entries after the station's message is delivered unheard. -/
def unheard (s : State) : List (EditState × Option Nat × Option MsgKind) :=
  (after (.attemptCompletion ⟨[], .unheard⟩) s).entries.map fun x => (x.2.state, x.2.cursor, x.2.owed.map (·.kind))

theorem witness_DeliveredEditMessages :
    (∀ c p, ((dataSent c p).entryAt 0).map (·.cursor) = some (some c)) ∧ (Target.palette 0 6 0).fragments = 2
    ∧ unheard (dataSent 0 []) = [(.sending, some 1, some .data)]
    ∧ unheard (dataSent 1 [2]) = [(.awaiting, some 2, none)] ∧ unheard (dataSent 1 []) = [(.taken, some 2, some .take)]
    ∧ unheard (sending (.entry 0) (.propose ⟨5, 0⟩ 5010 (.level 0)) 1 ((station .member).putEntry 0
        (some { entry ⟨5, 0⟩ 5010 (.level 0) .own .sending with owed := some ⟨.propose, 0⟩ })))
      = [(.taken, none, some .take)]
    ∧ unheard (sending (.entry 0) (.take ⟨5, 0⟩) 1 ((station .member).putEntry 0
        (some { entry ⟨5, 0⟩ 5010 (.level 0) .own .taken with owed := some ⟨.take, 0⟩ }))) = [(.taken, none, none)]
    ∧ (let s := sending (.outcome ⟨5, 1⟩) (.drop ⟨5, 1⟩ 0) 1 owingAll
       (after (.attemptCompletion ⟨[], .heard⟩) s).edit.outcomes.map (·.owed) = [none])
    ∧ frameDiff 5010 5000 = 10 :=
  ⟨fun _ _ => rfl, by decide, by decide +kernel, by decide +kernel, by decide +kernel, by decide +kernel,
    by decide +kernel, by decide +kernel, by decide⟩

/-- A responder at a cursor whose DUMP-DATA is in an attempt. -/
def dumping (cursor : Nat) : State :=
  sending .responder (.dumpData 2 (BitVec.ofNat 8 cursor) [Colour.black]) 1 ((station .member).setResp
    { Responder.reset with state := .sending, requester := some 2, cursor := cursor, owed := some ⟨.dumpData, 0⟩ })

theorem witness_DeliveredDumpMessages :
    (∀ c, (dumping c).catchUp.resp.cursor = c)
    ∧ (after (.attemptCompletion ⟨[], .heard⟩) (dumping 50)).catchUp.resp.owed = some ⟨.dumpData, 0⟩
    ∧ (after (.attemptCompletion ⟨[], .heard⟩) (dumping 51)).catchUp.resp.owed = some ⟨.dumpEnd, 0⟩
    ∧ (let s := offering.setResp { offering.catchUp.resp with endAfterBegin := true }
       (after (.attemptCompletion ⟨[], .heard⟩) (sending .responder (.dumpBegin 2 header) 1 s)).catchUp.resp.torn = true) :=
  ⟨fun _ => rfl, by decide +kernel, by decide +kernel, by decide +kernel⟩

theorem witness_ReceptionsKeepTheirTimeAndStreak :
    (station .listen).ctl.role.receives = true ∧ (station .listen).bus.gapSeen = true
    ∧ (station .listen).bus.attempt = none ∧ (hearing (station .listen)).hears
    ∧ 14 + 1 < 16 ∧ 15 + 1 = 16 :=
  ⟨rfl, rfl, rfl, hears_hearing rfl, by decide, rfl⟩

theorem test_sixteenth_corrupt_reception_detaches :
    let s := hearing (station .listen)
    (after .corruptReception { s with bus := { s.bus with corruptStreak := 15 } }).ctl.role = .detached
    ∧ (after .corruptReception { s with bus := { s.bus with corruptStreak := 14 } }).bus.corruptStreak = 15
    ∧ (after .voidReception { s with bus := { s.bus with corruptStreak := 15 } }).bus.corruptStreak = 15 := by
  decide +kernel

/-- A station acknowledges what it finds good, void or not, and answers what it finds corrupt with an error. -/
theorem test_the_window_is_driven_by_what_was_received :
    let s := hearing (station .member)
    s.bus.driven = .nothing ∧ (after .voidReception s).bus.driven = .acknowledgment
    ∧ (after (.takeArrival 2 ⟨2, 9⟩) s).bus.driven = .acknowledgment ∧ (after .corruptReception s).bus.driven = .error
    ∧ (after .receptionStart (after .corruptReception s)).bus.driven = .nothing := by decide +kernel

theorem witness_RolesOutsideTheWallHearAndSendNothing :
    (station .detached).ctl.role.receives = false ∧ Instr.receptionStart.isReception = true
    ∧ (station .listen).ctl.role.transmits = false := by decide

/-! ### Beacons and farewells -/

theorem witness_OwnNumberInABeaconDetaches :
    (hearing (station .member)).hears ∧ (station .member).events.length + 2 ≤ 32
    ∧ ((after (.beaconArrival 5 beacon) (hearing (station .member))).events.map fun e => (e.kind, e.reason, e.role))
      = [(.detached, some .duplicate, none), (.roleChanged, none, some .detached)] :=
  ⟨hears_hearing rfl, by decide, by decide +kernel⟩

theorem witness_CompatibleBeaconUpdatesItsEntry :
    let s := hearing (withPeer 31 (peer .heard) (station .member))
    s.ctl.role.receives = true ∧ s.bus.attempt = some (.receiving ⟨5000, 10⟩ true) ∧ (31 : Station) ≠ s.cfg.station
    ∧ s.peers[(31 : Station).toNat]? = some (peer .heard) ∧ Role.ofBeacon beacon.role = some .member
    ∧ beacon.lineLength = s.cfg.lineLength ∧ beacon.lines = s.cfg.lines
    ∧ ((after (.beaconArrival 31 beacon) s).peers[31]?.map fun p => (p.state, p.verdict)) = some (.live, .agree) := by
  decide +kernel

theorem witness_MismatchingBeaconMakesAnEntryIncompatible :
    let s := hearing (withPeer 0 (peer .live) (station .listen))
    s.hears ∧ (0 : Station) ≠ s.cfg.station ∧ s.peers[(0 : Station).toNat]? = some (peer .live)
    ∧ Role.ofBeacon strange.role = some .member ∧ strange.lines ≠ s.cfg.lines
    ∧ (peer .incompatible).state = .incompatible :=
  ⟨hears_hearing rfl, by decide, by decide +kernel, by decide, by decide, rfl⟩

theorem witness_FarewellClearsItsEntry :
    let s := hearing (withPeer 31 (peer .silent) (station .listen))
    s.hears ∧ (31 : Station) ≠ s.cfg.station ∧ s.peers[(31 : Station).toNat]? = some (peer .silent)
    ∧ (peer .silent).state ≠ .absent ∧ (7 : Station) ≠ 31
    ∧ s.peers[(30 : Station).toNat]? = some (Peer.cleared Capture.empty)
    ∧ (after (.farewellArrival 31 31) s).peers[31]? = some (Peer.cleared Capture.empty) :=
  ⟨hears_hearing rfl, by decide, by decide +kernel, by decide, by decide, by decide +kernel, by decide +kernel⟩

/-! ### Edits on the bus -/

theorem witness_EditMessagesTouchOnlyTheEditUnit :
    (Instr.acceptArrival 2 ⟨5, 0⟩).isEditArrival = true ∧ (hearing (station .member)).hears
    ∧ exec (.acceptArrival 2 ⟨5, 0⟩) (hearing (station .member))
      = .next (after (.acceptArrival 2 ⟨5, 0⟩) (hearing (station .member))) := ⟨rfl, hears_hearing rfl, rfl⟩

theorem witness_AdmittedProposalCreatesAnEntry :
    let s := hearing (station .align)
    let u := ({ s with bus := { s.bus with attempt := none, corruptStreak := 0, driven := .acknowledgment } }.supersede ⟨2, 9⟩).withdrawUnsent
      (.palette 0 256 0)
    s.hears ∧ s.ctl.role ≠ .leaving ∧ (⟨2, 9⟩ : EditId).proposer = 2 ∧ (2 : Station) ≠ s.cfg.station
    ∧ (Target.palette 0 256 0).inRange = true
    ∧ (∀ k e, u.entryAt k = some e → e.target.conflicts (.palette 0 256 0) = false)
    ∧ 3 ≤ frameDiff 5003 s.timer.frame ∧ frameDiff 5256 s.timer.frame ≤ 256
    ∧ u.entries.length < 16 ∧ (Target.palette 0 256 0).reservation ≤ u.poolFree :=
  ⟨hears_hearing rfl, by decide, rfl, by decide, by decide, no_conflict (by decide +kernel), by decide +kernel,
    by decide +kernel, by decide +kernel, by decide +kernel⟩

theorem witness_SupersedeAndWithdrawals :
    worked.bus.attempt = none ∧ (worked.findEntry ⟨9, 7⟩).map (·.1) = some 2 ∧ worked.findEntry ⟨9, 8⟩ = none
    ∧ (worked.entryAt 1).map (fun e => (e.holding, e.proposed, e.target.conflicts (.pan 100 0)))
      = some (.own, some false, true)
    ∧ ((worked.supersede ⟨9, 7⟩).events.map fun e => (e.id, e.reason)) = [(some ⟨9, 7⟩, some .superseded)]
    ∧ ((worked.withdrawUnsent (.pan 100 0)).events.map fun e => (e.id, e.reason))
      = [(some ⟨6, 11⟩, some .conflict)] := by decide +kernel

/-- An edit table with no empty index. -/
def full : State :=
  (List.range 16).foldl (fun s i => s.putEntry i
    (some (entry ⟨9, BitVec.ofNat 8 i⟩ 5010 (.pan 0 0) .voter .accepted))) (station .member)

theorem witness_OtherProposalsAreRefusedOrIgnored :
    (hearing full).hears ∧ (hearing (station .leaving)).ctl.role = .leaving ∧ (⟨3, 1⟩ : EditId).proposer ≠ 2
    ∧ (Target.palette 1 256 0).inRange = false ∧ full.ctl.role ≠ .leaving
    ∧ (let u := ({ hearing full with
          bus := { (hearing full).bus with attempt := none, corruptStreak := 0, driven := .acknowledgment } }.supersede ⟨2, 9⟩).withdrawUnsent (.level 1)
       (∀ k e, u.entryAt k = some e → e.target.conflicts (.level 1) = false) ∧ 16 ≤ u.entries.length)
    ∧ frameDiff 5002 5000 < 3 ∧ 256 < frameDiff 5257 5000 ∧ 3 ≤ frameDiff 5003 5000 ∧ frameDiff 5256 5000 ≤ 256
    ∧ ((after (.proposeArrival 2 ⟨2, 9⟩ 5003 (.level 1)) (hearing full)).edit.refusals.map (·.reason)) = [.noRoom]
    ∧ ((after (.proposeArrival 2 ⟨2, 9⟩ 5003 (.pan 1 1)) (hearing full)).edit.refusals.map (·.reason)) = [.conflict] := by
  refine ⟨hears_hearing rfl, rfl, by decide, by decide, by decide, ⟨no_conflict (by decide +kernel), by decide +kernel⟩,
    by decide, by decide, by decide, by decide, by decide +kernel, by decide +kernel⟩

/-- The refusal list at its fourth entry and full, and with the id; the outcome list at its eighth entry and full, and with the
id. -/
theorem test_the_lists_at_their_limits :
    let refused (k : Nat) : State := (List.range k).foldl (fun s i => s.refuse ⟨2, BitVec.ofNat 8 i⟩ .lead) (station .member)
    let decided (k : Nat) : List OutcomeEntry :=
      (List.range k).map fun i => ⟨⟨2, BitVec.ofNat 8 i⟩, true, none, none⟩
    let late : OutcomeEntry := ⟨⟨2, 3⟩, false, none, none⟩
    ((refused 4).edit.refusals.map (·.id.sequence)) = [0, 1, 2, 3] ∧ (refused 5).edit.refusals = (refused 4).edit.refusals
    ∧ ((refused 3).refuse ⟨2, 1⟩ .check).edit.refusals = (refused 3).edit.refusals
    ∧ joinOutcomes (decided 7) ⟨⟨2, 9⟩, true, none, none⟩ = decided 7 ++ [⟨⟨2, 9⟩, true, none, none⟩]
    ∧ ((joinOutcomes (decided 8) ⟨⟨2, 9⟩, true, none, none⟩).map (·.id.sequence)) = [1, 2, 3, 4, 5, 6, 7, 9]
    ∧ ((joinOutcomes (decided 8) late).map (·.id.sequence)) = [0, 1, 2, 4, 5, 6, 7, 3] := by decide +kernel

/-- An entry of six records that holds its first fragment, under the right check value of six black records or another. -/
def collecting (h : Holding) (check : Half) : State :=
  hearing ((station .member).putEntry 0 (some { entry ⟨2, 9⟩ 5010 (.palette 0 6 check) h .collecting with
    staged := List.replicate 6 (some Colour.black), received := some [0] }))

theorem witness_FragmentsAreStoredThenChecked :
    (∀ h check, (collecting h check).hears) ∧ (2 : Station) ≠ (collecting .voter 105).cfg.station
    ∧ ((collecting .voter 105).findEntry ⟨2, 9⟩).map (fun x => (x.1, x.2.state, x.2.target))
      = some (0, .collecting, .palette 0 6 105)
    ∧ (1 : Byte).toNat < fragmentCount (6 : Half).toNat ∧ (1 : Byte).toNat ∉ [0]
    ∧ [Colour.black].length = min 5 ((6 : Half).toNat - 5 * (1 : Byte).toNat)
    ∧ ((after (.dataArrival 2 ⟨2, 9⟩ 1 [Colour.black]) (collecting .voter 105)).entries.map fun x => (x.2.state, x.2.owed))
      = [(.accepted, some ⟨.accept, 0⟩)]
    ∧ ((after (.dataArrival 2 ⟨2, 9⟩ 1 [Colour.black]) (collecting .observer 105)).entries.map fun x => x.2.state)
      = [.complete]
    ∧ ((after (.dataArrival 2 ⟨2, 9⟩ 1 [Colour.black]) (collecting .voter 104)).edit.refusals.map (·.reason)) = [.check]
    ∧ ((after (.dataArrival 2 ⟨2, 9⟩ 2 [Colour.black]) (collecting .voter 105)).entries.map fun x => x.2.received)
      = [some [0]] := by
  refine ⟨fun _ _ => hears_hearing rfl, ?_⟩
  decide +kernel

/-- An own entry that station 2 alone may still vote on. -/
def voting (st : EditState) (takeFrame : FrameNo) : State :=
  hearing ((station .member).putEntry 0 (some (entry ⟨5, 0⟩ takeFrame (.level 1) .own st)))

theorem witness_VotesDecideAnOwnEntry :
    (voting .awaiting 5003).hears ∧ (2 : Station) ≠ (voting .awaiting 5003).cfg.station
    ∧ (voting .awaiting 5003).findEntry ⟨5, 0⟩ = some (0, entry ⟨5, 0⟩ 5003 (.level 1) .own .awaiting)
    ∧ 2 ∈ (entry ⟨5, 0⟩ 5003 (.level 1) .own .awaiting).pendingVoters.getD [] ∧ 2 ∈ ([2] : List Station)
    ∧ 3 ≤ frameDiff 5003 5000 ∧ (3 : Station) ∉ ([2] : List Station)
    ∧ ((after (.acceptArrival 2 ⟨5, 0⟩) (voting .awaiting 5003)).entries.map fun x => (x.2.state, x.2.owed))
      = [(.taken, some ⟨.take, 0⟩)]
    ∧ ((after (.acceptArrival 2 ⟨5, 0⟩) (voting .awaiting 5002)).entries.map fun x => x.2.state) = [.awaiting]
    ∧ ((after (.refuseArrival 2 ⟨5, 0⟩ 12) (voting .sending 5003)).edit.outcomes.map (·.owed)) = [some ⟨.drop, 0⟩] := by
  refine ⟨hears_hearing rfl, ?_⟩
  decide +kernel

/-- An entry of proposer 2, of a holding role and state, with its take frame at a distance. -/
def followed (h : Holding) (st : EditState) (takeFrame : FrameNo) : State :=
  hearing ((station .align).putEntry 0 (some (entry ⟨2, 9⟩ takeFrame (.level 1) h st)))

theorem witness_TakeAndDropActByTheStateOfTheEntry :
    (∀ h st, (followed h st 5000).hears)
    ∧ (followed .observer .complete 5000).findEntry ⟨2, 9⟩ = some (0, entry ⟨2, 9⟩ 5000 (.level 1) .observer .complete)
    ∧ (followed .observer .collecting 5000).findEntry ⟨2, 9⟩
      = some (0, entry ⟨2, 9⟩ 5000 (.level 1) .observer .collecting)
    ∧ (followed .voter .taken 5000).findEntry ⟨2, 9⟩ = some (0, entry ⟨2, 9⟩ 5000 (.level 1) .voter .taken)
    ∧ (2 : Station) ≠ (followed .voter .taken 5000).cfg.station ∧ (3 : Station) ≠ (⟨2, 9⟩ : EditId).proposer
    ∧ ((after (.takeArrival 2 ⟨2, 9⟩) (followed .observer .complete 5000)).events.map (·.kind)) = [.takeLate]
    ∧ (after (.takeArrival 2 ⟨2, 9⟩) (followed .observer .complete 5001)).events = []
    ∧ ((after (.dropArrival 2 ⟨2, 9⟩ 1) (followed .voter .accepted 5001)).events.map (·.reason))
      = [some .droppedByProposer] := by
  refine ⟨fun _ _ => hears_hearing rfl, ?_⟩
  decide +kernel

/-- A member that recorded an outcome and asks for it as well. -/
def remembering : State :=
  let s := (station .member).recordOutcome ⟨⟨2, 9⟩, true, none, none⟩
  hearing (s.putEntry 0 (some { doubting 1 with id := ⟨2, 9⟩, owed := some ⟨.query, 0⟩ }))

theorem witness_QueryIsAnsweredFromTheOutcomeList :
    remembering.hears ∧ (5 : Station) = remembering.cfg.station ∧ (3 : Station) ≠ remembering.cfg.station
    ∧ (remembering.findEntry ⟨2, 9⟩).map (·.1) = some 0 ∧ remembering.findEntry ⟨2, 8⟩ = none
    ∧ ((after (.queryArrival 3 ⟨2, 9⟩) remembering).edit.outcomes.map (·.owed)) = [some ⟨.outcome, 0⟩]
    ∧ ((after (.queryArrival 3 ⟨2, 9⟩) remembering).entries.map fun x => x.2.owed) = [none] := by
  refine ⟨hears_hearing rfl, ?_⟩
  decide +kernel

theorem witness_OutcomeSettlesAWaitingEntry :
    (followed .voter .inDoubt 4999).hears ∧ (5 : Station) = (followed .voter .inDoubt 4999).cfg.station
    ∧ (followed .voter .inDoubt 4999).findEntry ⟨2, 9⟩ = some (0, entry ⟨2, 9⟩ 4999 (.level 1) .voter .inDoubt)
    ∧ (followed .voter .collecting 5001).findEntry ⟨2, 9⟩ = some (0, entry ⟨2, 9⟩ 5001 (.level 1) .voter .collecting)
    ∧ (followed .voter .collecting 5001).findEntry ⟨2, 8⟩ = none
    ∧ ((after (.outcomeArrival 3 ⟨2, 9⟩ true) (followed .voter .inDoubt 4999)).entries.map fun x => (x.2.state, x.2.late))
      = [(.taken, true)] := by
  refine ⟨hears_hearing rfl, ?_⟩
  decide +kernel

/-! ### The dump -/

theorem witness_EligibleMemberOffersADump :
    let s := hearing (station .member)
    s.hears ∧ (2 : Station) ≠ s.cfg.station ∧ s.ctl.role = .member ∧ s.wall.valid = true ∧ s.ctl.stale = false
    ∧ s.catchUp.req.state = .idle ∧ s.catchUp.resp.state = .idle ∧ (hearing (station .align)).ctl.role ≠ .member :=
  ⟨hears_hearing rfl, by decide, rfl, rfl, rfl, rfl, rfl, by decide⟩

theorem witness_DumpBeginStartsAReceptionOrEndsAnOffer :
    let s := hearing (requesting (waiting .asking 0) (station .align))
    let r := hearing (requesting (waiting .receiving 0) (station .align))
    let o := hearing offering
    s.hears ∧ r.hears ∧ o.hears ∧ s.cfg.station = 5 ∧ s.catchUp.req.state = .asking ∧ r.catchUp.req.state = .receiving
    ∧ r.catchUp.req.responder = some 2 ∧ o.catchUp.resp.state = .offering ∧ o.catchUp.resp.requester = some 2
    ∧ (3 : Station) ≠ o.cfg.station ∧ (after (.dumpBeginArrival 3 2 header) o).catchUp.resp = Responder.reset
    ∧ (after (.dumpBeginArrival 3 5 header) s).catchUp.req.responder = some 3
    ∧ (after (.dumpBeginArrival 5 5 header) s).catchUp.req.state = .asking :=
  ⟨hears_hearing rfl, hears_hearing rfl, hears_hearing rfl, rfl, rfl, rfl, rfl, rfl, rfl, by decide, by decide +kernel,
    by decide +kernel, by decide +kernel⟩

/-- A dump of 256 black records, all received: its check value is 7 × (0 + … + 255) mod 65536. -/
def received : State :=
  let s := hearing (requesting { waiting .receiving 0 with received := List.range 52, header := some header } (station .align))
  { s with catchUp := { s.catchUp with buffer := tabulate 256 fun _ => some Colour.black } }

theorem witness_DumpDataIsStoredAndDumpEndJudges :
    received.hears ∧ received.cfg.station = 5 ∧ received.catchUp.req.state = .receiving
    ∧ received.catchUp.req.responder = some 2 ∧ (3 : Station) ≠ 2
    ∧ (∀ j, j < 52 → j ∈ received.catchUp.req.received)
    ∧ checkValue 0 (received.catchUp.buffer.toList.map recordOr) = 31872
    ∧ (51 : Byte).toNat < 52 ∧ (51 : Byte).toNat ∉ List.range 51 ∧ ¬ ((52 : Byte).toNat < 52)
    ∧ (after (.dumpEndArrival 2 5 false 31872) received).catchUp.req.state = .applyPending
    ∧ (after (.dumpEndArrival 2 5 true 31872) received).catchUp.req.tries = 1 := by
  refine ⟨hears_hearing rfl, ?_⟩
  decide +kernel

theorem test_dump_apply_loads_the_wall :
    let s := after (.dumpEndArrival 2 5 false 31872) received
    let t := after (.frameStart FrameWork.all) s
    t.wall.version = 7 ∧ t.wall.level = 3 ∧ t.wall.palette[255]? = some Colour.black ∧ t.catchUp.req.state = .idle
    ∧ (t.events.map (·.kind)) = [.dumpDone] := by decide +kernel

/-! ### Scan-out -/

/-- A fetch of line 8 − 1 in buffer A, with 15 of 16 answers in. -/
def fetching : State :=
  let s := (station .member).scanTo 6 0
  { s with pixel := { s.pixel with
    bufferA := ⟨some 7, 0, 0, List.replicate 15 (some 9) ++ [none]⟩, fetch := some ⟨.a, 15, 14⟩ } }

theorem witness_FetchesReadTheCanvasInOrder :
    fetching.timer.running = true ∧ fetching.pixel.fetch = some ⟨.a, 15, 14⟩
    ∧ (fetching.pixel.buffer .a).line = some 7 ∧ 15 < fetching.cfg.width.toNat ∧ fetching.pixel.givenUp = 0
    ∧ 14 < (fetching.pixel.buffer .a).slots.length ∧ fetching.pixel.queued = none
    ∧ (after .readRequestIssue fetching).pixel.request = some (7 * 64 + 15)
    ∧ (let s := after (.readAnswer 1) (after (.readAnswer 2) (after .readRequestIssue fetching))
       s.pixel.fetch = none ∧ (s.pixel.buffer .a).slots.getLast? = some (some 1))
    ∧ 0 < (after .powerOnReset fetching).pixel.givenUp ∧ fetching.pixel.requestedHere = false
    ∧ (station .member).pixel.fetch = none := by decide +kernel

theorem witness_LineFetchesAreIssuedAndCut :
    (let s := (station .member).scanTo 6 0
     s.timer.running = true ∧ s.timer.line = 6 ∧ s.timer.pixel = 0 ∧ s.pixel.issuedHere = false
     ∧ 6 + 1 < s.cfg.height.toNat ∧ (after (.fetchIssue 6) s).pixel.issuedHere = true)
    ∧ (let s := (station .member).scanTo 15 0
       s.cfg.height.toNat ≤ 15 + 1 ∧ 15 + 1 = frameLines s.cfg s.timer)
    ∧ (let s := fetching.scanTo 7 16
       s.timer.running = true ∧ s.pixel.fetch = some ⟨.a, 15, 14⟩ ∧ (s.pixel.buffer .a).line = some 7 ∧ s.timer.line = 7
       ∧ s.timer.pixel ≤ s.cfg.width.toNat ∧ (after .fetchCut s).pixel.givenUp = 1)
    ∧ (after (.fetchIssue 6) ((station .member).scanTo 6 0)).pixel.fetch = some ⟨.a, 0, 0⟩ := by decide +kernel

/-- At the latch of a frame start the line-0 fetch stands under its own pan, and is issued again under another. -/
theorem witness_LineZeroFetchStandsOrIsIssuedAgain :
    let s := after (.fetchIssue 15) ((station .member).scanTo 15 0)
    let moved := { s with wall := { s.wall with panX := 1 } }
    (s.pixel.buffer .a).line = some 0 ∧ (s.pixel.buffer .b).line = none
    ∧ (station .member).pixel.bufferA.line ≠ some 0 ∧ (s.pixel.buffer .a).panX = s.wall.panX
    ∧ (s.pixel.buffer .a).panX ≠ moved.wall.panX
    ∧ s.latchFrame.pixel.fetch = some ⟨.a, 0, 0⟩ ∧ (s.issueRead.latchFrame).pixel.fetch = some ⟨.a, 1, 0⟩
    ∧ (moved.issueRead.latchFrame).pixel.fetch = some ⟨.a, 0, 0⟩ ∧ moved.issueRead.latchFrame.pixel.givenUp = 1
    ∧ (moved.latchFrame.pixel.buffer .a).panX = 1 := by decide +kernel

/-- One read request at each pixel clock: a row and a tick at one position issue one; a line start in blanking owes it too; a row
at a clock whose request is out is the next clock, at which a fetch can be cut; the last clock of a frame has none. -/
theorem test_one_read_request_at_each_pixel_clock :
    (let s := after .readRequestIssue (after (.fetchIssue 6) ((station .member).scanTo 6 0))
     s.pixel.fetch = some ⟨.a, 1, 0⟩ ∧ s.tick.pixel.fetch = some ⟨.a, 1, 0⟩ ∧ s.tick.timer.pixel = 0
     ∧ s.tick.tick.pixel.fetch = some ⟨.a, 2, 0⟩ ∧ s.tick.tick.timer.pixel = 1
     ∧ s.nextPosition = some (6, 1) ∧ s.pixel.requestedHere = true
     ∧ (after .readRequestIssue s).pixel.fetch = some ⟨.a, 2, 0⟩ ∧ (after .readRequestIssue s).timer.pixel = 1)
    ∧ (let s := after (.fetchIssue 15) ((station .member).scanTo 15 0)
       s.clockOwed = true ∧ s.tick.timer.pixel = 0 ∧ s.tick.timer.line = 15 ∧ s.tick.pixel.fetch = some ⟨.a, 1, 0⟩
       ∧ s.tick.clockOwed = false)
    ∧ (let s := fetching.scanTo 7 15
       let t := after .readRequestIssue { s with pixel := { s.pixel with
         queued := some .b, requestedHere := true,
         bufferB := ⟨some 0, 0, 0, List.replicate 16 none⟩ } }
       t.timer.pixel = 16 ∧ t.pixel.fetch = some ⟨.b, 1, 0⟩ ∧ t.pixel.givenUp = 1)
    ∧ (let s := fetching.scanTo 15 127
       let t := { s with pixel := { s.pixel with requestedHere := true } }
       t.nextPosition = none ∧ after .readRequestIssue t = t) := by decide +kernel

/-- The last active pixel, with the output shown under a level. -/
def shown (level : Byte) : State :=
  let s := fetching.scanTo 7 15
  { s with pixel := { s.pixel with latched := { s.pixel.latched with showing := true, level := level } } }

theorem witness_ActivePixelsShowTheLatchedState :
    (shown 255).timer.running = true ∧ (shown 255).timer.line = 7 ∧ (shown 255).timer.pixel = 15
    ∧ 7 < (shown 255).cfg.height.toNat ∧ 15 < (shown 255).cfg.width.toNat
    ∧ (shown 255).pixel.latched.showing = true ∧ (shown 255).pixel.indexAt 7 15 = none
    ∧ (shown 255).pixel.indexAt 7 14 = some 9 ∧ fetching.pixel.latched.showing = false
    ∧ (shown 255).pixel.latched.palette[9]? = some (greyRamp 9)
    ∧ ((after (.activePixelScan 7 15) (shown 255)).events.map (·.kind)) = [.pixelUnderrun]
    ∧ (after (.activePixelScan 7 14) ((shown 127).scanTo 7 14)).pixel.rgb = ⟨18, 18, 18⟩
    ∧ (shown 255).pixel.scannedHere = false ∧ (after (.activePixelScan 7 15) (shown 255)).pixel.scannedHere = true := by
  decide +kernel

/-- A pixel is output once: the fetch issued at its clock leaves its colour, and an answer that comes for its slot after it
has been scanned is not shown at it, neither by a row that comes again nor by a pixel clock. -/
theorem test_a_pixel_is_output_once :
    (let line := { fetching.pixel with
        bufferA := ⟨some 6, 0, 0, List.replicate 16 (some 9)⟩, fetch := none
        latched := { fetching.pixel.latched with showing := true } }
     let s := after (.activePixelScan 6 0) { fetching with pixel := line }
     s.pixel.rgb = ⟨36, 36, 36⟩ ∧ (after (.fetchIssue 6) s).pixel.rgb = ⟨36, 36, 36⟩
     ∧ (after (.fetchIssue 6) s).pixel.fetch = some ⟨.b, 0, 0⟩)
    ∧ (let dark := after (.activePixelScan 7 15) (shown 255)
       let late := after (.readAnswer 9) (after (.readAnswer 9) (after .readRequestIssue dark))
       dark.pixel.indexAt 7 15 = none ∧ late.pixel.indexAt 7 15 = some 9
       ∧ (after (.activePixelScan 7 15) late).pixel.rgb = Colour.black ∧ late.tick.timer.pixel = 16) := by
  decide +kernel

/-- The layout of R91 at L = 1100, N = 625 under c = −150 and c = 100, and the timing signals at their edges. -/
theorem test_frame_layout_and_timing_signals :
    (let t : Timer := { Timer.reset with correction := -150 }
     frameLines panel t = 625 ∧ lineClocks panel t 624 = 950 ∧ lineClocks panel t 623 = 1100)
    ∧ (let t : Timer := { Timer.reset with correction := 100 }
       frameLines panel t = 626 ∧ lineClocks panel t 625 = 100)
    ∧ (∀ s ∈ [(station .member).scanTo 0 15, (station .member).scanTo 1 16],
        s.linePulse = (s.timer.pixel == 16) ∧ s.dataEnable = (s.timer.pixel == 15) ∧ s.framePulse = (s.timer.line == 0))
    ∧ State.reset.framePulse = false ∧ State.reset.linePulse = false ∧ State.reset.dataEnable = false := by
  decide +kernel

/-! ### Events, timing, invariants -/

theorem witness_PostedEventsJoinOrMarkTheTail :
    let e : Event := ⟨.stale, 0, none, none, none, none, false⟩
    (List.replicate 31 e).length < 32 ∧ (List.replicate 31 e ++ [e]).length = 32 := by decide

theorem witness_EditsConflictWhenTheyWriteOneItem :
    Target.inRange (.palette 255 1 0) = true ∧ Target.inRange (.palette 0 256 0) = true
    ∧ Target.conflicts (.palette 255 1 0) (.palette 0 256 0) = true
    ∧ (Target.pan 0 0).code ≠ (Target.level 0).code := by decide

theorem witness_AdoptTakesTheShorteningOrTheLengtheningForm :
    panel.values.inRange = true ∧ 1375510 < 4294967296 * (panel.lineLength.toNat * panel.lines.toNat)
    ∧ ((1375510 % 687500 : Nat) : Int) ≤ panel.shorteningLimit ∧ ¬ ((500000 % 687500 : Nat) : Int) ≤ panel.shorteningLimit := by
  decide +kernel

theorem witness_WallErrorChoosesTheRegime :
    let l : Int := ((station .member).cfg.lineLength.toNat : Int)
    4 * l ≤ |(-512 : Int)| ∧ 16 ≤ |(511 : Int)| ∧ |(511 : Int)| < 4 * l ∧ |(-15 : Int)| < 16 ∧ 16 ≤ 4 * l
    ∧ (station .member).timer.lockCount < 7
    ∧ ((station .member).steer (-2000)).timer.correction = -896 ∧ ((station .member).steer 511).timer.correction = 128
    ∧ ((station .member).steer (-15)).timer.correction = -7 ∧ ((station .member).steer (-15)).timer.trim = 511 := by
  decide +kernel

/-- A LIVE member peer with a fresh offset. -/
def offsetPeer (v : OffsetValue) : Peer := { peer .live with offset := some ⟨v, ⟨5000, 0⟩, ⟨5000, 0⟩, true⟩ }

/-- Station 2 with that offset is the one peer of a station. -/
def steered (r : Role) (v : OffsetValue) : State := withPeer 2 (offsetPeer v) (station r)

theorem steered_peerAt {r : Role} {v : OffsetValue} {n : Nat} {p : Peer} (h : (steered r v).peerAt n = some p) :
    n = 2 ∧ p = offsetPeer v ∨ p = Peer.cleared Capture.empty := by
  have h' := (State.peerAt_lt h).2.2
  by_cases hn : n = 2
  · subst hn
    exact Or.inl ⟨rfl, (Option.some.inj h').symm⟩
  · refine Or.inr (peers_reset_state (n := n) ?_)
    have hs : (steered r v).peers[n]? = (tabulate 32 fun _ => Peer.cleared Capture.empty)[n]? :=
      Vector.getElem?_setIfInBounds_ne (Ne.symm hn)
    rw [← hs]
    exact h'

/-- The one fresh offset of a LIVE entry is that of station 2. -/
theorem steered_fresh {r : Role} {v : OffsetValue} {n : Nat} {o : Offset}
    (h : ∃ x, (steered r v).peerAt n = some x ∧ x.state = .live ∧ x.offset = some o ∧ o.fresh = true) :
    n = 2 ∧ o = ⟨v, ⟨5000, 0⟩, ⟨5000, 0⟩, true⟩ := by
  obtain ⟨x, hx, hl, ho, _⟩ := h
  rcases steered_peerAt hx with ⟨rfl, rfl⟩ | rfl
  · exact ⟨rfl, (Option.some.inj ho).symm⟩
  · cases hl

/-- So it is ahead by most. -/
theorem steered_is_ahead_by_most (r : Role) (v : OffsetValue)
    (hv : aheadOf 2048 ⟨v, ⟨5000, 0⟩, ⟨5000, 0⟩, true⟩ ⟨v, ⟨5000, 0⟩, ⟨5000, 0⟩, true⟩ = false) :
    ∀ m b, (∃ x, (steered r v).peerAt m = some x ∧ x.state = .live ∧ x.offset = some b ∧ b.fresh = true) →
      aheadOf 2048 b ⟨v, ⟨5000, 0⟩, ⟨5000, 0⟩, true⟩ = false
      ∧ (aheadOf 2048 ⟨v, ⟨5000, 0⟩, ⟨5000, 0⟩, true⟩ b = false → 2 ≤ m) := by
  intro m b h
  obtain ⟨rfl, rfl⟩ := steered_fresh h
  exact ⟨hv, fun _ => Nat.le_refl 2⟩

/-- LISTEN with a member ahead, a renumber, no contributor, no remaining offset, and a wall error. -/
theorem witness_TheFrameTimerChooses :
    (steered .listen .farBehind).ctl.role = .listen ∧ (steered .align .farAhead).ctl.role = .align
    ∧ (∀ r v, (steered r v).peerAt 2 = some (offsetPeer v))
    ∧ (∀ v, (offsetPeer v).state = .live ∧ (offsetPeer v).reported.map (·.role) = some .member)
    ∧ (∀ v ∈ [OffsetValue.farAhead, .farBehind, .value (-1024), .value 1024],
        aheadOf 2048 ⟨v, ⟨5000, 0⟩, ⟨5000, 0⟩, true⟩ ⟨v, ⟨5000, 0⟩, ⟨5000, 0⟩, true⟩ = false)
    ∧ (steered .listen .farBehind).timerWork.2 = some .listen
    ∧ (steered .align .farAhead).timerWork.2 = some .renumber
    ∧ (steered .leaving (.value (-1024))).timerWork.2 = some .renumber
    ∧ (∀ n x, (station .member).peerAt n = some x → x.state ≠ .live)
    ∧ (∀ m o, (∃ x, (steered .member .farBehind).peerAt m = some x ∧ x.state = .live ∧ x.offset = some o
        ∧ o.fresh = true) → o.candidate 2048 = false ∧ o.remaining 2048 = none)
    ∧ (∀ m o, (∃ x, (steered .member (.value 1023)).peerAt m = some x ∧ x.state = .live ∧ x.offset = some o
        ∧ o.fresh = true) → o.candidate 2048 = false ∧ o.remaining 2048 = some 1023)
    ∧ (steered .member (.value 1023)).timerWork.1.timer.correction = 128
    ∧ (steered .member (.value 1023)).timerWork.1.timer.lock = .settling := by
  refine ⟨rfl, rfl, fun _ _ => rfl, fun _ => ⟨rfl, rfl⟩, by decide, by decide +kernel, by decide +kernel,
    by decide +kernel, fun _ _ h => by rw [station_peerAt (r := .member) h]; decide, fun m o h => ?_, fun m o h => ?_,
    by decide +kernel, by decide +kernel⟩
  · obtain ⟨_, rfl⟩ := steered_fresh h
    decide
  · obtain ⟨_, rfl⟩ := steered_fresh h
    decide

theorem witness_StepsKeepTheLaws :
    step State.reset = .next State.reset ∧ State.reset.withinCapacity ∧ State.reset.lockLawful := by
  refine ⟨rfl, ⟨?_, ?_, ?_⟩, ?_, ?_, ?_⟩ <;> decide

theorem witness_PeersLawful : (station .member).peersLawful := by
  intro n p h
  rw [peers_reset_state h]
  exact ⟨by decide, by decide, by decide⟩

theorem witness_TableLawful : (station .member).tableLawful := by
  refine ⟨fun i j a b ha _ _ => ?_, by decide +kernel, by decide +kernel⟩
  rw [no_entries rfl i] at ha
  cases ha

theorem witness_RecordAndCorrectionLawful : (station .member).recordLawful ∧ (station .member).correctionLawful := by
  refine ⟨⟨?_, ?_, ?_, ?_, ?_⟩, ?_, ?_⟩ <;> decide +kernel

theorem witness_LatchLawful : (station .member).latchLawful := by
  refine ⟨rfl, rfl, rfl, rfl, rfl, ?_⟩
  decide

theorem witness_OutsideLawful :
    State.reset.ctl.role.receives = false ∧ State.reset.outsideLawful := by
  refine ⟨rfl, fun _ => ⟨rfl, rfl, no_entries rfl, rfl, rfl, fun n p h => ?_, rfl, rfl, rfl, fun a h => ?_⟩⟩
  · rw [peers_reset_state h]; rfl
  · cases h

end Sys2Proof.Tests
end

/-! # An application, the due entries of a frame start, and a dump apply (R8, R9, R36 to R38, R138) -/

namespace Sys2Proof.Machine

open Sys2Proof

/-! ### The write of one edit (R9), target by target -/

section Write

variable (w : WallState) {e : EditEntry}

/-- An item of the palette that a PALETTE edit covers takes the record staged for it. -/
theorem WallState.apply_palette_getElem?_covered {start : Byte} {count check : Half}
    (ht : e.target = .palette start count check) {k : Nat} {c : Colour} (hk : k < count.toNat)
    (h256 : start.toNat + k < 256) (hc : e.staged[k]? = some (some c)) :
    (w.apply e).palette[start.toNat + k]? = some c := by
  simp [WallState.apply, ht, hk, h256, hc, recordOr]

/-- An item of the palette that a PALETTE edit does not cover is left as it is. -/
theorem WallState.apply_palette_getElem?_uncovered {start : Byte} {count check : Half}
    (ht : e.target = .palette start count check) {k : Nat} (hk : k < start.toNat ∨ start.toNat + count.toNat ≤ k) :
    (w.apply e).palette[k]? = w.palette[k]? := by
  have hout : ¬ (start.toNat ≤ k ∧ k < start.toNat + count.toNat) := by omega
  simp only [WallState.apply, ht, tabulate_getElem?, hout, if_false]
  by_cases h256 : k < 256
  · simp [h256, recordOr]
  · simp [h256]

theorem WallState.apply_pan {x y : Half} (ht : e.target = .pan x y) :
    (w.apply e).panX = x ∧ (w.apply e).panY = y := by
  simp [WallState.apply, ht]

theorem WallState.apply_level {value : Byte} (ht : e.target = .level value) : (w.apply e).level = value := by
  simp [WallState.apply, ht]

theorem WallState.apply_blank {on : Bool} (ht : e.target = .blank on) : (w.apply e).blank = on := by
  simp [WallState.apply, ht]

theorem WallState.apply_keeps_palette (ht : e.target.isPalette = false) : (w.apply e).palette = w.palette := by
  cases hx : e.target with
  | palette start count check => simp [hx, Target.isPalette] at ht
  | pan x y => simp [WallState.apply, hx]
  | level value => simp [WallState.apply, hx]
  | blank on => simp [WallState.apply, hx]

theorem WallState.apply_keeps_pan (ht : ∀ x y, e.target ≠ .pan x y) :
    (w.apply e).panX = w.panX ∧ (w.apply e).panY = w.panY := by
  cases hx : e.target with
  | pan x y => exact absurd hx (ht x y)
  | palette start count check => simp [WallState.apply, hx]
  | level value => simp [WallState.apply, hx]
  | blank on => simp [WallState.apply, hx]

theorem WallState.apply_keeps_level (ht : ∀ value, e.target ≠ .level value) : (w.apply e).level = w.level := by
  cases hx : e.target with
  | level value => exact absurd hx (ht value)
  | palette start count check => simp [WallState.apply, hx]
  | pan x y => simp [WallState.apply, hx]
  | blank on => simp [WallState.apply, hx]

theorem WallState.apply_keeps_blank (ht : ∀ on, e.target ≠ .blank on) : (w.apply e).blank = w.blank := by
  cases hx : e.target with
  | blank on => exact absurd hx (ht on)
  | palette start count check => simp [WallState.apply, hx]
  | pan x y => simp [WallState.apply, hx]
  | level value => simp [WallState.apply, hx]

end Write

/-! ### What an application changes -/

theorem State.applyEntry_wall (s : State) (i : Nat) (e : EditEntry) : (s.applyEntry i e).wall = s.wall.apply e := rfl

theorem State.applyEntry_events (s : State) (i : Nat) (e : EditEntry) :
    (s.applyEntry i e).events
      = joinQueue s.events ⟨.editTaken, s.timer.frame, none, some e.id, none, none, false⟩ := rfl

theorem State.applyEntry_removes (s : State) (i : Nat) (e : EditEntry) : (s.applyEntry i e).entryAt i = none := by
  rw [State.entryAt_applyEntry]
  by_cases hi : i < 16
  · simp [hi]
  · simp [hi, State.entryAt_of_le (Nat.not_lt.1 hi)]

/-- A run of applications leaves the indices of its entries empty, whatever the requester context. -/
theorem State.entryAt_foldl_applyEntry (xs : List (Nat × EditEntry)) (s : State) (k : Nat) :
    (xs.foldl (fun s x => s.applyEntry x.1 x.2) s).entryAt k
      = if k < 16 ∧ k ∈ xs.map (·.1) then none else s.entryAt k := by
  induction xs generalizing s with
  | nil => simp
  | cons x xs ih =>
    rw [List.foldl_cons, ih, State.entryAt_applyEntry]
    by_cases hk : k = x.1
    · subst hk
      by_cases h16 : x.1 < 16 <;> simp [h16]
    · simp only [Ne.symm hk, false_and, if_false, List.map_cons, List.mem_cons, hk, false_or]

/-! ### The entries that pass a test -/

theorem State.mem_entries_filter {s : State} {test : EditEntry → Bool} {x : Nat × EditEntry} :
    x ∈ s.entries.filter (fun x => test x.2) ↔ s.entryAt x.1 = some x.2 ∧ test x.2 = true := by
  obtain ⟨i, e⟩ := x
  rw [List.mem_filter, State.mem_entries]

/-- An index that holds an entry is among those of the entries that pass a test when its entry passes. -/
theorem State.index_mem_entries_filter {s : State} {test : EditEntry → Bool} {k : Nat} {e : EditEntry}
    (h : s.entryAt k = some e) : k ∈ (s.entries.filter fun x => test x.2).map (·.1) ↔ test e = true := by
  constructor
  · intro hk
    obtain ⟨x, hx, rfl⟩ := List.mem_map.1 hk
    obtain ⟨hat, htest⟩ := State.mem_entries_filter.1 hx
    obtain rfl := Option.some.inj (h.symm.trans hat)
    exact htest
  · exact fun htest => List.mem_map.2 ⟨(k, e), State.mem_entries_filter.2 ⟨h, htest⟩, rfl⟩

/-- Two states whose indices hold the same entries that pass a test list the same ones. -/
theorem State.entries_filter_congr {s t : State} {test : EditEntry → Bool}
    (h : ∀ k, (t.entryAt k).filter test = (s.entryAt k).filter test) :
    t.entries.filter (fun x => test x.2) = s.entries.filter (fun x => test x.2) := by
  have hlist : ∀ u : State, u.entries.filter (fun x => test x.2)
      = (List.range 16).filterMap fun i => ((u.entryAt i).filter test).map fun e => (i, e) := by
    intro u
    rw [State.entries, List.filter_filterMap]
    refine List.filterMap_congr fun i _ => ?_
    rw [Option.filter_map]
    rfl
  rw [hlist, hlist]
  exact List.filterMap_congr fun i _ => by rw [h]

/-! ### The due entries of a frame start (R36 to R38) -/

/-- The entries that are due by a test, in edit-id order: those takeDue takes. -/
def State.dueEntries (s : State) (due : EditEntry → Bool) : List (Nat × EditEntry) :=
  sortBy (fun a b => EditId.before a.2.id b.2.id) (s.entries.filter fun x => due x.2)

theorem State.takeDue_eq (s : State) (due : EditEntry → Bool) :
    s.takeDue due
      = (s.dueEntries due).foldl (fun s x => if s.catchingUp then s.deferEntry x.1 x.2 else s.applyEntry x.1 x.2) s :=
  rfl

theorem State.dueEntries_perm (s : State) (due : EditEntry → Bool) :
    (s.dueEntries due).Perm (s.entries.filter fun x => due x.2) := sortBy_perm _ _

theorem State.mem_dueEntries {s : State} {due : EditEntry → Bool} {x : Nat × EditEntry} :
    x ∈ s.dueEntries due ↔ s.entryAt x.1 = some x.2 ∧ due x.2 = true :=
  (s.dueEntries_perm due).mem_iff.trans State.mem_entries_filter

theorem State.nodup_dueEntries (s : State) (due : EditEntry → Bool) : (s.dueEntries due).Nodup :=
  (s.dueEntries_perm due).nodup_iff.2 (s.entries_nodup.filter _)

theorem State.dueEntries_ordered (s : State) (due : EditEntry → Bool) :
    (s.dueEntries due).Pairwise fun x y => EditId.before y.2.id x.2.id = false := sortBy_before _

theorem State.index_mem_dueEntries {s : State} {due : EditEntry → Bool} {k : Nat} {e : EditEntry}
    (h : s.entryAt k = some e) : k ∈ (s.dueEntries due).map (·.1) ↔ due e = true :=
  ((s.dueEntries_perm due).map _).mem_iff.trans (State.index_mem_entries_filter h)

/-- At a station that is not catching up the due entries are applied, and leave the table. -/
theorem State.takeDue_of_idle {s : State} (due : EditEntry → Bool) (h : s.catchingUp = false) :
    s.takeDue due = (s.dueEntries due).foldl (fun s x => s.applyEntry x.1 x.2) s
    ∧ (s.takeDue due).catchingUp = false
    ∧ ∀ k, (s.takeDue due).entryAt k = (s.entryAt k).bind fun e => if due e then none else some e := by
  obtain ⟨hrun, hidle, hat⟩ := foldl_take_of_idle (s.dueEntries due) s h
  rw [← State.takeDue_eq] at hrun
  refine ⟨hrun, hrun ▸ hidle, fun k => ?_⟩
  rw [hrun, hat]
  cases hk : s.entryAt k with
  | none => simp
  | some e => simp [State.index_mem_dueEntries hk, State.entryAt_lt hk]

/-- At a station that is catching up the due entries are deferred; a late one sets the missed flag. -/
theorem State.takeDue_of_catchingUp {s : State} (due : EditEntry → Bool) (h : s.catchingUp = true) :
    (∃ table, s.takeDue due = { s with
      edit := { s.edit with table := table }
      catchUp := { s.catchUp with
        req := { s.catchUp.req with missed := s.catchUp.req.missed || (s.dueEntries due).any fun x => x.2.late } } })
    ∧ ∀ k, (s.takeDue due).entryAt k
        = (s.entryAt k).map fun e => if (k, e) ∈ s.dueEntries due then { e with deferred := true } else e := by
  obtain ⟨table, hrun, hat⟩ := foldl_take_of_catchingUp (s.dueEntries due) s h
    (fun x hx => (State.mem_dueEntries.1 hx).1) (s.nodup_dueEntries due)
  rw [← State.takeDue_eq] at hrun
  refine ⟨⟨table, hrun⟩, fun k => ?_⟩
  rw [hrun]
  exact hat k

/-- Taking the entries that are due by one test leaves those due by another as they were, when no entry is due by both and no
deferred one by the other. -/
theorem State.dueEntries_takeDue (s : State) {first second : EditEntry → Bool}
    (hboth : ∀ e, first e = true → second e = false)
    (hdeferred : ∀ e : EditEntry, second { e with deferred := true } = false) :
    (s.takeDue first).dueEntries second = s.dueEntries second := by
  refine congrArg (sortBy _) (State.entries_filter_congr fun k => ?_)
  cases hc : s.catchingUp with
  | false =>
    obtain ⟨-, -, hat⟩ := State.takeDue_of_idle first hc
    rw [hat]
    cases hk : s.entryAt k with
    | none => rfl
    | some e =>
      by_cases hf : first e = true
      · simp [hf, hboth e hf, Option.filter]
      · simp [hf]
  | true =>
    obtain ⟨-, hat⟩ := State.takeDue_of_catchingUp first hc
    rw [hat]
    cases hk : s.entryAt k with
    | none => rfl
    | some e =>
      by_cases hf : (k, e) ∈ s.dueEntries first
      · simp [hf, hdeferred, hboth e (State.mem_dueEntries.1 hf).2, Option.filter]
      · simp [hf]

theorem EditEntry.dueOnTime_iff {f : FrameNo} {e : EditEntry} :
    e.dueOnTime f = true
      ↔ e.state = .taken ∧ e.late = false ∧ e.deferred = false ∧ frameDiff e.takeFrame f ≤ 0 := by
  simp [EditEntry.dueOnTime, laterThan, and_assoc]

theorem EditEntry.dueLate_iff {e : EditEntry} :
    e.dueLate = true ↔ e.state = .taken ∧ e.late = true ∧ e.deferred = false := by
  simp [EditEntry.dueLate, and_assoc]

theorem EditEntry.dueLate_of_dueOnTime {f : FrameNo} {e : EditEntry} (h : e.dueOnTime f = true) : e.dueLate = false := by
  obtain ⟨-, hlate, -⟩ := EditEntry.dueOnTime_iff.1 h
  simp [EditEntry.dueLate, hlate]

/-- The entries due on time at the frame beginning. -/
def State.onTimeEntries (s : State) : List (Nat × EditEntry) := s.dueEntries (EditEntry.dueOnTime s.frame)

/-- The entries due late. -/
def State.lateEntries (s : State) : List (Nat × EditEntry) := s.dueEntries EditEntry.dueLate

theorem State.mem_onTimeEntries {s : State} {x : Nat × EditEntry} :
    x ∈ s.onTimeEntries ↔ s.entryAt x.1 = some x.2 ∧ x.2.state = .taken ∧ x.2.late = false ∧ x.2.deferred = false
      ∧ frameDiff x.2.takeFrame s.timer.frame ≤ 0 :=
  State.mem_dueEntries.trans (and_congr_right fun _ => EditEntry.dueOnTime_iff)

theorem State.mem_lateEntries {s : State} {x : Nat × EditEntry} :
    x ∈ s.lateEntries ↔ s.entryAt x.1 = some x.2 ∧ x.2.state = .taken ∧ x.2.late = true ∧ x.2.deferred = false :=
  State.mem_dueEntries.trans (and_congr_right fun _ => EditEntry.dueLate_iff)

theorem State.nodup_onTimeEntries_append (s : State) : (s.onTimeEntries ++ s.lateEntries).Nodup := by
  refine List.nodup_append'.2 ⟨s.nodup_dueEntries _, s.nodup_dueEntries _, fun x hon hlate => ?_⟩
  obtain ⟨-, -, hl, -⟩ := State.mem_onTimeEntries.1 hon
  obtain ⟨-, -, hl', -⟩ := State.mem_lateEntries.1 hlate
  exact Bool.false_ne_true (hl.symm.trans hl')

/-- The late entries are the same after the on-time ones have been taken. -/
theorem State.lateEntries_takeDue (s : State) :
    (s.takeDue (EditEntry.dueOnTime s.frame)).dueEntries EditEntry.dueLate = s.lateEntries :=
  s.dueEntries_takeDue (fun _ => EditEntry.dueLate_of_dueOnTime) fun e => by simp [EditEntry.dueLate]

theorem State.catchingUp_iff {s : State} : s.catchingUp = true ↔ s.catchUp.req.state ≠ .idle := by
  simp [State.catchingUp]

theorem State.catchingUp_eq_false_iff {s : State} : s.catchingUp = false ↔ s.catchUp.req.state = .idle := by
  simp [State.catchingUp]

/-- With the requester context IDLE the on-time entries are applied, then the late ones. -/
theorem State.applications_of_idle {s : State} (h : s.catchUp.req.state = .idle) :
    s.applications = (s.onTimeEntries ++ s.lateEntries).foldl (fun s x => s.applyEntry x.1 x.2) s := by
  obtain ⟨hfirst, hidle, -⟩ := State.takeDue_of_idle (EditEntry.dueOnTime s.frame) (State.catchingUp_eq_false_iff.2 h)
  obtain ⟨hsecond, -⟩ := State.takeDue_of_idle EditEntry.dueLate hidle
  rw [State.lateEntries_takeDue, hfirst] at hsecond
  rw [State.applications, hfirst, hsecond, List.foldl_append]
  rfl

theorem State.onTimeEntries_any_late (s : State) : (s.onTimeEntries.any fun x => x.2.late) = false := by
  rw [List.any_eq_false]
  intro x hx
  obtain ⟨-, -, hlate, -⟩ := State.mem_onTimeEntries.1 hx
  simp [hlate]

theorem State.lateEntries_any_late (s : State) : (s.lateEntries.any fun x => x.2.late) = !s.lateEntries.isEmpty := by
  have hall : ∀ x ∈ s.lateEntries, x.2.late = true := fun x hx => by
    obtain ⟨-, -, hlate, -⟩ := State.mem_lateEntries.1 hx
    exact hlate
  cases hl : s.lateEntries with
  | nil => rfl
  | cons x xs => simp [hall x (by simp [hl])]

/-- While the station is catching up the due entries are deferred, a late one sets the missed flag, and nothing else of the
wall state, the events and the Catch-Up Unit changes. -/
theorem State.applications_of_catchingUp {s : State} (h : s.catchUp.req.state ≠ .idle) :
    s.applications.wall = s.wall ∧ s.applications.events = s.events
    ∧ s.applications.catchUp = { s.catchUp with
        req := { s.catchUp.req with missed := s.catchUp.req.missed || !s.lateEntries.isEmpty } }
    ∧ ∀ k, s.applications.entryAt k = (s.entryAt k).map fun e =>
        if (k, e) ∈ s.onTimeEntries ++ s.lateEntries then { e with deferred := true } else e := by
  obtain ⟨⟨table, hfirst⟩, hat⟩ :=
    State.takeDue_of_catchingUp (EditEntry.dueOnTime s.frame) (State.catchingUp_iff.2 h)
  have hcatching : (s.takeDue (EditEntry.dueOnTime s.frame)).catchingUp = true := by
    rw [hfirst]
    exact State.catchingUp_iff.2 h
  obtain ⟨⟨table', hsecond⟩, hat'⟩ := State.takeDue_of_catchingUp EditEntry.dueLate hcatching
  rw [State.lateEntries_takeDue] at hsecond hat'
  have hmissed := s.onTimeEntries_any_late
  rw [State.onTimeEntries] at hmissed
  rw [hmissed, Bool.or_false] at hfirst
  refine ⟨?_, ?_, ?_, fun k => ?_⟩
  · rw [State.applications, hsecond, hfirst]
  · rw [State.applications, hsecond, hfirst]
  · rw [State.applications, hsecond, hfirst, State.lateEntries_any_late]
  · rw [State.applications, hat', hat, Option.map_map]
    refine congrArg (fun f => Option.map f (s.entryAt k)) (funext fun e => ?_)
    have hdeferred : ∀ e : EditEntry, (k, { e with deferred := true }) ∉ s.lateEntries := fun e hmem => by
      obtain ⟨-, -, -, hd⟩ := State.mem_lateEntries.1 hmem
      simp at hd
    rw [← State.onTimeEntries]
    by_cases hon : (k, e) ∈ s.onTimeEntries
    · simp [hon, hdeferred]
    · simp [hon]

/-! ### The deferred entries at a dump apply (R38) -/

/-- The order of the entries that survive a dump of frame f: the distance of the take frame from f, then the edit id. -/
def dumpOrder (f : FrameNo) (a b : Nat × EditEntry) : Bool :=
  frameDiff a.2.takeFrame f < frameDiff b.2.takeFrame f
    || (frameDiff a.2.takeFrame f = frameDiff b.2.takeFrame f && EditId.before a.2.id b.2.id)

theorem dumpOrder_eq_false_iff {f : FrameNo} {a b : Nat × EditEntry} :
    dumpOrder f b a = false ↔ frameDiff a.2.takeFrame f < frameDiff b.2.takeFrame f
      ∨ (frameDiff a.2.takeFrame f = frameDiff b.2.takeFrame f ∧ EditId.before b.2.id a.2.id = false) := by
  cases hb : EditId.before b.2.id a.2.id with
  | false => simp [dumpOrder, hb]; omega
  | true => simp [dumpOrder, hb]; omega

theorem dumpOrder_asymm (f : FrameNo) (a b : Nat × EditEntry) (h : dumpOrder f a b = true) : dumpOrder f b a = false := by
  simp only [dumpOrder, Bool.or_eq_true, Bool.and_eq_true, decide_eq_true_eq] at h
  rw [dumpOrder_eq_false_iff]
  rcases h with hlt | ⟨heq, hid⟩
  · exact .inl hlt
  · exact .inr ⟨heq, EditId.before_asymm _ _ hid⟩

theorem dumpOrder_cotrans (f : FrameNo) (a b c : Nat × EditEntry) (h1 : dumpOrder f b a = false)
    (h2 : dumpOrder f c b = false) : dumpOrder f c a = false := by
  rw [dumpOrder_eq_false_iff] at *
  rcases h1 with h1 | ⟨h1, hid1⟩
  · left; omega
  · rcases h2 with h2 | ⟨h2, hid2⟩
    · left; omega
    · exact .inr ⟨h1.trans h2, EditId.before_cotrans _ _ _ hid1 hid2⟩

/-- The deferred entries later than f, in the order in which a dump of frame f applies them. -/
def State.survivors (s : State) (f : FrameNo) : List (Nat × EditEntry) :=
  sortBy (dumpOrder f) ((s.entries.filter fun x => x.2.deferred).filter fun x => laterThan x.2.takeFrame f)

/-- The deferred entries not later than f, which a dump of frame f drops. -/
def State.overtaken (s : State) (f : FrameNo) : List (Nat × EditEntry) :=
  (s.entries.filter fun x => x.2.deferred).filter fun x => !laterThan x.2.takeFrame f

theorem State.applyDeferred_eq (s : State) (f : FrameNo) :
    s.applyDeferred f = (s.survivors f).foldl (fun s x => s.applyEntry x.1 x.2)
      ((s.overtaken f).foldl (fun s x => s.removeEntry x.1) s) := rfl

theorem State.survivors_perm (s : State) (f : FrameNo) :
    (s.survivors f).Perm (s.entries.filter fun x => laterThan x.2.takeFrame f && x.2.deferred) := by
  rw [State.survivors, List.filter_filter]
  exact sortBy_perm _ _

theorem State.mem_survivors {s : State} {f : FrameNo} {x : Nat × EditEntry} :
    x ∈ s.survivors f
      ↔ s.entryAt x.1 = some x.2 ∧ x.2.deferred = true ∧ 0 < frameDiff x.2.takeFrame f := by
  rw [(s.survivors_perm f).mem_iff,
    State.mem_entries_filter (test := fun e => laterThan e.takeFrame f && e.deferred)]
  simp [laterThan, and_comm]

theorem State.nodup_survivors (s : State) (f : FrameNo) : (s.survivors f).Nodup :=
  (s.survivors_perm f).nodup_iff.2 (s.entries_nodup.filter _)

theorem State.survivors_ordered (s : State) (f : FrameNo) :
    (s.survivors f).Pairwise fun x y => frameDiff x.2.takeFrame f < frameDiff y.2.takeFrame f
      ∨ (frameDiff x.2.takeFrame f = frameDiff y.2.takeFrame f ∧ EditId.before y.2.id x.2.id = false) :=
  (sortBy_pairwise (dumpOrder_cotrans f) (dumpOrder_asymm f) _).imp dumpOrder_eq_false_iff.1

theorem State.index_mem_survivors {s : State} {f : FrameNo} {k : Nat} {e : EditEntry} (h : s.entryAt k = some e) :
    k ∈ (s.survivors f).map (·.1) ↔ (laterThan e.takeFrame f && e.deferred) = true :=
  ((s.survivors_perm f).map _).mem_iff.trans
    (State.index_mem_entries_filter (test := fun e => laterThan e.takeFrame f && e.deferred) h)

theorem State.index_mem_overtaken {s : State} {f : FrameNo} {k : Nat} {e : EditEntry} (h : s.entryAt k = some e) :
    k ∈ (s.overtaken f).map (·.1) ↔ (!laterThan e.takeFrame f && e.deferred) = true := by
  rw [State.overtaken, List.filter_filter]
  exact State.index_mem_entries_filter (test := fun e => !laterThan e.takeFrame f && e.deferred) h

/-- After the deferred entries have been dropped or applied none of them is left, and the others are as they were. -/
theorem State.entryAt_applyDeferred (s : State) (f : FrameNo) (k : Nat) :
    (s.applyDeferred f).entryAt k = (s.entryAt k).bind fun e => if e.deferred then none else some e := by
  obtain ⟨-, hremoved⟩ := foldl_removeEntry (s.overtaken f) s
  rw [State.applyDeferred_eq, State.entryAt_foldl_applyEntry, hremoved]
  cases hk : s.entryAt k with
  | none => simp
  | some e =>
    simp only [State.index_mem_survivors hk, State.index_mem_overtaken hk, State.entryAt_lt hk, true_and]
    cases laterThan e.takeFrame f <;> simp

/-- What the deferred entries leave behind outside the edit table: the writes and the EDIT-TAKEN events of the survivors. -/
theorem State.applyDeferred_rest (s : State) (f : FrameNo) :
    (s.applyDeferred f).wall = (s.survivors f).foldl (fun w x => w.apply x.2) s.wall
    ∧ (s.applyDeferred f).events = (s.survivors f).foldl
        (fun q x => joinQueue q ⟨.editTaken, s.timer.frame, none, some x.2.id, none, none, false⟩) s.events
    ∧ (s.applyDeferred f).timer = s.timer ∧ (s.applyDeferred f).ctl = s.ctl := by
  obtain ⟨⟨table, attempt, hremoved⟩, -⟩ := foldl_removeEntry (s.overtaken f) s
  rw [State.applyDeferred_eq, hremoved]
  obtain ⟨hwall, hevents, htimer, hctl, -⟩ := foldl_applyEntry_rest (s.survivors f)
    { s with edit := { s.edit with table := table }, bus := { s.bus with attempt := attempt } }
  exact ⟨hwall, hevents, htimer, hctl⟩

/-! ### The dump apply (R138) -/

/-- The state with the dump loaded, before the deferred entries. -/
def State.loadDump (s : State) (h : Header) : State := { s with wall := WallState.load h s.catchUp.buffer }

theorem State.dumpApply_of_pending {s : State} {h : Header} (hst : s.catchUp.req.state = .applyPending)
    (hh : s.catchUp.req.header = some h) : s.dumpApply = s.applyDump h := by
  simp [State.dumpApply, hst, hh]

theorem State.dumpApply_of_not_pending {s : State} (hst : s.catchUp.req.state ≠ .applyPending) : s.dumpApply = s := by
  unfold State.dumpApply
  split
  · next hpending _ => exact absurd hpending hst
  · rfl

/-- Outside the requester context a dump apply is the same whether or not the missed flag was set. -/
theorem State.applyDump_rest (s : State) (h : Header) :
    let d := (s.loadDump h).applyDeferred h.frame
    (s.applyDump h).wall = d.wall
    ∧ (s.applyDump h).events
        = joinQueue d.events ⟨.dumpDone, d.timer.frame, s.catchUp.req.responder, none, none, none, false⟩
    ∧ (s.applyDump h).edit = d.edit ∧ (s.applyDump h).ctl = { d.ctl with stale := false }
    ∧ (s.applyDump h).catchUp.buffer = emptyBuffer := by
  simp only [State.applyDump, State.loadDump]
  generalize State.applyDeferred _ _ = d
  split <;> exact ⟨rfl, rfl, rfl, rfl, rfl⟩

/-- Without a missed edit the dump apply ends the catch-up: the context becomes IDLE. -/
theorem State.applyDump_req_of_not_missed {s : State} (h : Header) (hm : s.catchUp.req.missed = false) :
    (s.applyDump h).catchUp.req = { s.catchUp.req with state := .idle, tries := 0, responder := none, header := none } := by
  simp [State.applyDump, hm]

/-- After a missed edit the dump apply begins a new cycle. -/
theorem State.applyDump_req_of_missed {s : State} (h : Header) (hm : s.catchUp.req.missed = true) :
    (s.applyDump h).catchUp.req = { s.catchUp.req with
      state := .asking, tries := 0, askWait := none, responder := none, header := none, received := [],
      receiveWait := none, retryWait := none, missed := false, owed := some ⟨.dumpRequest, 0⟩ } := by
  simp [State.applyDump, hm, State.beginCycle, Requester.discard]

end Sys2Proof.Machine

namespace Sys2Proof

open Sys2Proof.Machine

/-- Settles O22: one application target by target, the due entries as the on-time list followed by the late one, and the dump
apply as the load of the dump followed by the survivors in their order. -/
theorem applicationWritesTheTargetAndRaisesTheVersion :
    Obligations.ApplicationWritesTheTargetAndRaisesTheVersion := by
  unfold Obligations.ApplicationWritesTheTargetAndRaisesTheVersion
  refine ⟨fun s i e => ?application, fun s => ?due, fun s => ⟨State.dumpApply_of_not_pending, fun h hst hh => ?dump⟩⟩
  case application =>
    rw [s.applyEntry_wall i e]
    obtain ⟨hversion, hvalid⟩ := s.wall.apply_version e
    exact ⟨hversion, hvalid, s.applyEntry_events i e, s.applyEntry_removes i e,
      fun _ _ _ ht => ⟨fun _ _ => s.wall.apply_palette_getElem?_covered ht,
        fun _ => s.wall.apply_palette_getElem?_uncovered ht⟩,
      fun _ _ => s.wall.apply_pan, fun _ => s.wall.apply_level, fun _ => s.wall.apply_blank,
      s.wall.apply_keeps_palette, s.wall.apply_keeps_pan, s.wall.apply_keeps_level, s.wall.apply_keeps_blank⟩
  case due =>
    exact ⟨s.onTimeEntries, s.lateEntries, fun _ => State.mem_onTimeEntries, fun _ => State.mem_lateEntries,
      s.nodup_onTimeEntries_append, s.dueEntries_ordered _, s.dueEntries_ordered _,
      State.applications_of_idle, State.applications_of_catchingUp⟩
  case dump =>
    rw [State.dumpApply_of_pending hst hh]
    obtain ⟨hwall, hevents, hedit, hctl, hbuffer⟩ := s.applyDump_rest h
    obtain ⟨hwall', hevents', htimer', hctl'⟩ := (s.loadDump h).applyDeferred_rest h.frame
    have hentry : ∀ k, (s.applyDump h).entryAt k = (s.entryAt k).bind fun e => if e.deferred then none else some e :=
      fun k => (State.entryAt_eq_of_edit_eq hedit k).trans ((s.loadDump h).entryAt_applyDeferred h.frame k)
    refine ⟨(s.loadDump h).survivors h.frame, fun _ => State.mem_survivors, State.nodup_survivors _ _,
      State.survivors_ordered _ _, hwall.trans hwall', ?_, hentry, ?_, hbuffer,
      State.applyDump_req_of_not_missed h, State.applyDump_req_of_missed h⟩
    · rw [hevents, hevents', htimer']
      rfl
    · rw [hctl, hctl']
      rfl

end Sys2Proof

/-! # When two edits conflict (R16, R17) -/

namespace Sys2Proof

/-- A PALETTE edit within the ranges of R16 covers at least one palette index. -/
theorem Target.count_pos_of_inRange {start : Byte} {count check : Half}
    (h : Target.inRange (.palette start count check) = true) : 0 < count.toNat := by
  simp only [Target.inRange, Bool.and_eq_true, decide_eq_true_eq] at h
  obtain ⟨hcount, -⟩ := h
  exact hcount

/-- Two PALETTE edits conflict when each range begins before the end of the other. -/
theorem Target.conflicts_palette_iff {start start' : Byte} {count check count' check' : Half} :
    Target.conflicts (.palette start count check) (.palette start' count' check') = true
      ↔ start.toNat < start'.toNat + count'.toNat ∧ start'.toNat < start.toNat + count.toNat := by
  simp only [Target.conflicts, Bool.and_eq_true, decide_eq_true_eq]

/-- Two nonempty ranges share an index when each begins before the end of the other: the later of the two starts is shared. -/
theorem exists_shared_index_iff {start start' count count' : Nat} (hcount : 0 < count) (hcount' : 0 < count') :
    (∃ i, (start ≤ i ∧ i < start + count) ∧ (start' ≤ i ∧ i < start' + count'))
      ↔ start < start' + count' ∧ start' < start + count := by
  constructor
  · rintro ⟨i, ⟨hstart, hend⟩, hstart', hend'⟩
    exact ⟨hstart.trans_lt hend', hstart'.trans_lt hend⟩
  · rintro ⟨hbefore', hbefore⟩
    exact ⟨max start start', by omega, by omega⟩

/-- Edits in conflict are of the same kind. -/
theorem Target.code_eq_of_conflicts {t t' : Target} (h : t.conflicts t' = true) : t.code = t'.code := by
  unfold Target.conflicts at h
  split at h
  · rfl
  · rfl
  · rfl
  · rfl
  · exact absurd h Bool.false_ne_true

/-- Settles O52: PALETTE edits by the later start, edits of one other kind by definition, edits of different kinds because a
conflict forces equal kind codes. -/
theorem editsConflictWhenTheyWriteOneItem : Obligations.EditsConflictWhenTheyWriteOneItem := by
  unfold Obligations.EditsConflictWhenTheyWriteOneItem
  refine ⟨fun s c k s' c' k' hrange hrange' => ?palettes, fun _ _ _ _ => rfl, fun _ _ => rfl, fun _ _ => rfl,
    fun t t' hcode => ?differentKinds⟩
  case palettes =>
    rw [Target.conflicts_palette_iff]
    exact (exists_shared_index_iff (Target.count_pos_of_inRange hrange) (Target.count_pos_of_inRange hrange')).symm
  case differentKinds =>
    exact Bool.eq_false_iff.2 fun hconflict => hcode (Target.code_eq_of_conflicts hconflict)

end Sys2Proof

/-! # A submission, the fragments of an edit, and the votes on it (R44, R45, R49, R50, R52, R54, R57, R58) -/

namespace Sys2Proof.Machine

open Sys2Proof

/-! ### Submission (R44, R45) -/

/-- A SUBMIT in the command phase is tested, and its answer is left in the response phase, whatever its row. -/
theorem exec_of_submits {i : Instr} {x : Submission} {s : State} (hx : i.submits x) (hp : s.port.phase = .command) :
    exec i s = .next { (s.submit x).1 with port := ⟨.response, some (s.submit x).2⟩ } := by
  unfold Instr.submits at hx
  split at hx
  case h_1 =>
    obtain ⟨_, _, _, _, hread, rfl⟩ := hx
    exact congrArg Host.Outcome.next (State.transact_command hp hread rfl)
  case h_2 =>
    obtain ⟨_, _, _, hread, rfl⟩ := hx
    exact congrArg Host.Outcome.next (State.transact_command hp hread rfl)
  case h_3 =>
    obtain ⟨_, _, hread, rfl⟩ := hx
    exact congrArg Host.Outcome.next (State.transact_command hp hread rfl)
  case h_4 =>
    obtain ⟨_, _, hread, rfl⟩ := hx
    exact congrArg Host.Outcome.next (State.transact_command hp hread rfl)
  case h_5 => exact hx.elim

/-- A submission passes when none of the five tests of R44 fails. -/
theorem State.submitRefusal_of_passing {s : State} {x : Submission} (hrole : s.ctl.role = .member)
    (hrange : x.inRange = true) (hlead : 4 ≤ x.lead.toNat) (hown : s.ownCount < 4) (hlength : s.entries.length < 16)
    (hid : s.findEntry ⟨s.cfg.station, s.edit.sequence⟩ = none) (hconflict : s.conflictHeld x.target = false)
    (hroom : x.target.reservation ≤ s.poolFree) : s.submitRefusal x = none := by
  simp [State.submitRefusal, State.own, hrole, hrange, hlead, hown, hlength, hid, hconflict, hroom]

theorem State.submit_of_passing {s : State} {x : Submission} (h : s.submitRefusal x = none) :
    s.submit x = (s.createOwn x, done (s.submitPayload x)) := by
  simp only [State.submit, h]

/-- The submitted entry goes to the lowest empty index. -/
theorem State.createOwn_of_freeIndex {s : State} {k : Nat} (x : Submission) (h : s.freeIndex = some k) :
    s.createOwn x = { s with edit := { s.edit with
      table := s.edit.table.setIfInBounds k (some (s.submittedEntry x)), sequence := s.edit.sequence + 1 } } := by
  simp only [State.createOwn, h]
  rfl

/-! ### Arrivals of an edit's messages -/

theorem exec_dataArrival_of_hears {s : State} (h : s.hears) (sender : Station) (id : EditId) (fragment : Byte)
    (records : List Colour) :
    exec (.dataArrival sender id fragment records) s
      = .next (s.goodReception.dataArrives sender id fragment.toNat records) :=
  congrArg Host.Outcome.next (State.arrive_of_hears _ h)

theorem exec_acceptArrival_of_hears {s : State} (h : s.hears) (sender : Station) (id : EditId) :
    exec (.acceptArrival sender id) s = .next (s.goodReception.acceptArrives sender id) :=
  congrArg Host.Outcome.next (State.arrive_of_hears _ h)

theorem exec_refuseArrival_of_hears {s : State} (h : s.hears) (sender : Station) (id : EditId) (reason : Byte) :
    exec (.refuseArrival sender id reason) s = .next (s.goodReception.refuseArrives sender id) :=
  congrArg Host.Outcome.next (State.arrive_of_hears _ h)

theorem State.entryAt_putEntry_self {s : State} {i : Nat} (h : i < 16) (e : Option EditEntry) :
    (s.putEntry i e).entryAt i = e := by
  simp [State.entryAt_putEntry, h]

/-! ### Contents (R57, R58) -/

theorem holdsAll_iff {k : Nat} {xs : List Nat} : holdsAll k xs = true ↔ ∀ j, j < k → j ∈ xs := by
  simp [holdsAll]

theorem holdsAll_eq_false_iff {k : Nat} {xs : List Nat} : holdsAll k xs = false ↔ ∃ j, j < k ∧ j ∉ xs := by
  simp [← Bool.not_eq_true, holdsAll_iff]

/-- The entry with a fragment stored in it (R57). -/
def EditEntry.withFragment (e : EditEntry) (j : Nat) (records : List Colour) : EditEntry :=
  { e with staged := writeFrom e.staged (5 * j) (records.map some), received := some (insertNat j (e.received.getD [])) }

/-- What R57 asks of a fragment: the entry collects, and the fragment is one of its own, not yet held, and of the right size. -/
def EditEntry.awaitsFragment (e : EditEntry) (j : Nat) (records : List Colour) : Prop :=
  e.state = .collecting ∧ j < fragmentCount e.target.reservation ∧ j ∉ e.received.getD []
  ∧ records.length = min 5 (e.target.reservation - 5 * j)

theorem EditEntry.not_awaitsFragment_iff {e : EditEntry} {j : Nat} {records : List Colour} :
    ¬ e.awaitsFragment j records
      ↔ e.state ≠ .collecting ∨ fragmentCount e.target.reservation ≤ j ∨ j ∈ e.received.getD []
        ∨ records.length ≠ min 5 (e.target.reservation - 5 * j) := by
  simp only [EditEntry.awaitsFragment, not_and_or, not_lt, not_not, ne_eq]

theorem State.storeFragment_of_not_awaited {s : State} {e : EditEntry} {j : Nat} {records : List Colour} (i : Nat)
    (h : ¬ e.awaitsFragment j records) : s.storeFragment i e j records = s := by
  simp only [EditEntry.awaitsFragment] at h
  simp [State.storeFragment, fragmentSize, h]

/-- A fragment that leaves the set incomplete is stored. -/
theorem State.storeFragment_of_incomplete {s : State} {e : EditEntry} {j : Nat} {records : List Colour} (i : Nat)
    (h : e.awaitsFragment j records)
    (hset : holdsAll (fragmentCount e.target.reservation) (insertNat j (e.received.getD [])) = false) :
    s.storeFragment i e j records = s.putEntry i (some (e.withFragment j records)) := by
  obtain ⟨hstate, hj, hnew, hsize⟩ := h
  simp [State.storeFragment, fragmentSize, hstate, hj, hnew, hsize, hset, EditEntry.withFragment]

/-- The fragment that completes the set is stored, and the set is checked at once. -/
theorem State.storeFragment_of_complete {s : State} {e : EditEntry} {j : Nat} {records : List Colour} (i : Nat)
    (h : e.awaitsFragment j records)
    (hset : holdsAll (fragmentCount e.target.reservation) (insertNat j (e.received.getD [])) = true) :
    s.storeFragment i e j records
      = (s.putEntry i (some (e.withFragment j records))).checkFragments i (e.withFragment j records) := by
  obtain ⟨hstate, hj, hnew, hsize⟩ := h
  simp [State.storeFragment, fragmentSize, hstate, hj, hnew, hsize, hset, EditEntry.withFragment]

section Check

variable {s : State} {e : EditEntry} {start : Byte} {count check : Half} (i : Nat)

/-- A set that agrees with its check value makes a voter ACCEPTED, owing ACCEPT. -/
theorem State.checkFragments_agreeing_voter (ht : e.target = .palette start count check)
    (hcheck : checkValue start.toNat (e.staged.map recordOr) = check) (hh : e.holding = .voter) :
    s.checkFragments i e = s.enter i { e with state := .accepted } (some .accept) := by
  simp only [State.checkFragments, ht, hcheck, hh, if_true]

/-- It makes an observer COMPLETE. -/
theorem State.checkFragments_agreeing_observer (ht : e.target = .palette start count check)
    (hcheck : checkValue start.toNat (e.staged.map recordOr) = check) (hh : e.holding = .observer) :
    s.checkFragments i e = s.enter i { e with state := .complete } none := by
  simp only [State.checkFragments, ht, hcheck, hh, if_true]

/-- A set that does not agree is refused and dropped by a voter. -/
theorem State.checkFragments_differing_voter (ht : e.target = .palette start count check)
    (hcheck : checkValue start.toNat (e.staged.map recordOr) ≠ check) (hh : e.holding = .voter) :
    s.checkFragments i e = (s.refuse e.id .check).dropEntry i e .check := by
  simp only [State.checkFragments, ht, hcheck, hh, if_false]

/-- It is removed by every other holder. -/
theorem State.checkFragments_differing_other (ht : e.target = .palette start count check)
    (hcheck : checkValue start.toNat (e.staged.map recordOr) ≠ check) (hh : e.holding ≠ .voter) :
    s.checkFragments i e = s.removeEntry i := by
  simp only [State.checkFragments, ht, hcheck, if_false]

end Check

theorem State.fromProposer_iff {s : State} {sender : Station} {id : EditId} :
    s.fromProposer sender id = true ↔ sender ≠ s.cfg.station ∧ sender = id.proposer := by
  simp [State.fromProposer, State.own]

theorem State.dataArrives_of_fromProposer {s : State} {sender : Station} {id : EditId} {k : Nat} {e : EditEntry}
    (hfrom : s.fromProposer sender id = true) (hfind : s.findEntry id = some (k, e)) (j : Nat) (records : List Colour) :
    s.dataArrives sender id j records = s.storeFragment k e j records := by
  simp only [State.dataArrives, hfrom, hfind, if_true]

/-- A DATA that is not its proposer's, or that no entry of its id awaits, changes nothing. -/
theorem State.dataArrives_of_not_awaited {s : State} {sender : Station} {id : EditId} {j : Nat} {records : List Colour}
    (h : s.fromProposer sender id = true → ∀ k e, s.findEntry id = some (k, e) → ¬ e.awaitsFragment j records) :
    s.dataArrives sender id j records = s := by
  by_cases hfrom : s.fromProposer sender id = true
  · cases hfind : s.findEntry id with
    | none => simp only [State.dataArrives, hfind, ite_self]
    | some x =>
      rw [State.dataArrives_of_fromProposer hfrom hfind]
      exact State.storeFragment_of_not_awaited x.1 (h hfrom x.1 x.2 hfind)
  · simp only [State.dataArrives, hfrom, if_false, Bool.false_eq_true]

/-- What a refusal adds to the refusal list depends on that list alone. -/
theorem State.refuse_refusals_congr {s t : State} (h : t.edit.refusals = s.edit.refusals) (id : EditId) (r : Reason) :
    (t.refuse id r).edit.refusals = (s.refuse id r).edit.refusals := by
  simp only [State.refuse, h]
  split
  · rfl
  · exact h

theorem State.refuse_events (s : State) (id : EditId) (r : Reason) : (s.refuse id r).events = s.events := by
  rcases s.refuse_eq id r with h | ⟨-, h⟩ <;> rw [h]

theorem State.refuse_timer (s : State) (id : EditId) (r : Reason) : (s.refuse id r).timer = s.timer := by
  rcases s.refuse_eq id r with h | ⟨-, h⟩ <;> rw [h]

theorem State.dropEntry_events (s : State) (i : Nat) (e : EditEntry) (r : Reason) (st : Option Station) :
    (s.dropEntry i e r st).events
      = joinQueue s.events ⟨.editDropped, s.timer.frame, st, some e.id, some r, none, false⟩ := rfl

theorem State.dropEntry_refusals (s : State) (i : Nat) (e : EditEntry) (r : Reason) (st : Option Station) :
    (s.dropEntry i e r st).edit.refusals = s.edit.refusals := rfl

theorem State.dropEntry_outcomes (s : State) (i : Nat) (e : EditEntry) (r : Reason) (st : Option Station) :
    (s.dropEntry i e r st).edit.outcomes = s.edit.outcomes := rfl

/-! ### The decisions of the proposer (R52, R54) -/

/-- What R52 asks of an entry for a decision to take it. -/
def State.takeDecided (s : State) (e : EditEntry) : Prop :=
  e.holding = .own ∧ e.state = .awaiting ∧ e.pendingVoters = some [] ∧ 3 ≤ frameDiff e.takeFrame s.timer.frame

theorem State.tryTake_of_decided {s : State} {i : Nat} {e : EditEntry} (he : s.entryAt i = some e)
    (h : s.takeDecided e) :
    s.tryTake i
      = (s.enter i { e with state := .taken, late := false } (some .take)).recordOutcome ⟨e.id, true, none, none⟩ := by
  simp only [State.tryTake, he]
  exact if_pos h

theorem State.tryTake_of_not_decided {s : State} {i : Nat} {e : EditEntry} (he : s.entryAt i = some e)
    (h : ¬ s.takeDecided e) : s.tryTake i = s := by
  simp only [State.tryTake, he]
  exact if_neg h

theorem State.recordOutcome_outcomes (s : State) (o : OutcomeEntry) :
    (s.recordOutcome o).edit.outcomes = joinOutcomes s.edit.outcomes o := by
  obtain ⟨_, h⟩ := s.recordOutcome_eq o
  rw [h]

theorem State.recordOutcome_events (s : State) (o : OutcomeEntry) : (s.recordOutcome o).events = s.events := by
  obtain ⟨_, h⟩ := s.recordOutcome_eq o
  rw [h]

theorem State.recordOutcome_timer (s : State) (o : OutcomeEntry) : (s.recordOutcome o).timer = s.timer := by
  obtain ⟨_, h⟩ := s.recordOutcome_eq o
  rw [h]

theorem State.tryTake_events (s : State) (i : Nat) : (s.tryTake i).events = s.events := by
  rcases s.tryTake_cases i with h | ⟨e, -, -, -, -, -, h⟩
  · rw [h]
  · rw [h, State.recordOutcome_events, State.enter_events]

/-- A decision to drop records the outcome, removes the entry and posts EDIT-DROPPED. -/
theorem State.decideDrop_effect (s : State) {i : Nat} (hi : i < 16) (e : EditEntry) (r : Reason) (st : Option Station) :
    (s.decideDrop i e r st).entryAt i = none
    ∧ (s.decideDrop i e r st).edit.outcomes = joinOutcomes s.edit.outcomes
        ⟨e.id, false, some r, if e.proposed = some true then some ⟨.drop, 0⟩ else none⟩
    ∧ (s.decideDrop i e r st).events
        = joinQueue s.events ⟨.editDropped, s.timer.frame, st, some e.id, some r, none, false⟩ := by
  refine ⟨?_, ?_, ?_⟩
  · simp [State.decideDrop, State.entryAt_dropEntry, hi]
  · rw [State.decideDrop, State.dropEntry_outcomes, State.recordOutcome_outcomes]
  · rw [State.decideDrop, State.dropEntry_events, State.recordOutcome_events, State.recordOutcome_timer]

/-! ### Votes (R49, R50) -/

theorem EditEntry.undecided_iff {e : EditEntry} : e.undecided = true ↔ e.state = .sending ∨ e.state = .awaiting := by
  simp [EditEntry.undecided]

/-- The entry is one that a station of a set may vote on (R49, R50): own and undecided, the station in the set. -/
def EditEntry.votedBy (e : EditEntry) (sender : Station) (set : Option (List Station)) : Prop :=
  e.holding = .own ∧ (e.state = .sending ∨ e.state = .awaiting) ∧ sender ∈ set.getD []

theorem EditEntry.not_votedBy_iff {e : EditEntry} {sender : Station} {set : Option (List Station)} :
    ¬ e.votedBy sender set
      ↔ e.holding ≠ .own ∨ (e.state ≠ .sending ∧ e.state ≠ .awaiting) ∨ sender ∉ set.getD [] := by
  simp only [EditEntry.votedBy, not_and_or, not_or, ne_eq]

/-- The entry without one station in its pending-voter set. -/
def EditEntry.acceptedBy (e : EditEntry) (sender : Station) : EditEntry :=
  { e with pendingVoters := e.pendingVoters.map (·.filter (· != sender)) }

/-- A station that is in the set leaves the rest of it. -/
theorem EditEntry.acceptedBy_of_mem {e : EditEntry} {sender : Station} (h : sender ∈ e.pendingVoters.getD []) :
    e.acceptedBy sender = { e with pendingVoters := some ((e.pendingVoters.getD []).filter (· != sender)) } := by
  cases hp : e.pendingVoters with
  | none => simp [hp] at h
  | some pending => simp [EditEntry.acceptedBy, hp]

/-- An ACCEPT decides the take of an own entry that is AWAITING and has no other pending voter, in time (R49, R52). -/
theorem State.takeDecided_acceptedBy_iff {s : State} {e : EditEntry} {sender : Station} (hown : e.holding = .own)
    (h : sender ∈ e.pendingVoters.getD []) :
    s.takeDecided (e.acceptedBy sender)
      ↔ e.state = .awaiting ∧ (e.pendingVoters.getD []).filter (· != sender) = []
        ∧ 3 ≤ frameDiff e.takeFrame s.timer.frame := by
  rw [EditEntry.acceptedBy_of_mem h]
  simp only [State.takeDecided, hown, true_and, Option.some.injEq]

theorem State.acceptArrives_of_vote {s : State} {sender : Station} {id : EditId} {k : Nat} {e : EditEntry}
    (hfind : s.findEntry id = some (k, e)) (hsender : sender ≠ s.cfg.station)
    (h : e.votedBy sender e.pendingVoters) :
    s.acceptArrives sender id = (s.putEntry k (some (e.acceptedBy sender))).tryTake k := by
  obtain ⟨hown, hstate, hmem⟩ := h
  simp only [State.acceptArrives, hfind]
  exact if_pos ⟨hsender, hown, EditEntry.undecided_iff.2 hstate, List.contains_iff_mem.2 hmem⟩

theorem State.refuseArrives_of_vote {s : State} {sender : Station} {id : EditId} {k : Nat} {e : EditEntry}
    (hfind : s.findEntry id = some (k, e)) (hsender : sender ≠ s.cfg.station) (h : e.votedBy sender e.voters) :
    s.refuseArrives sender id = s.decideDrop k e .refused (some sender) := by
  obtain ⟨hown, hstate, hmem⟩ := h
  simp only [State.refuseArrives, hfind]
  exact if_pos ⟨hsender, hown, EditEntry.undecided_iff.2 hstate, List.contains_iff_mem.2 hmem⟩

theorem State.acceptArrives_of_no_vote {s : State} {sender : Station} {id : EditId}
    (h : sender ≠ s.cfg.station → ∀ k e, s.findEntry id = some (k, e) → ¬ e.votedBy sender e.pendingVoters) :
    s.acceptArrives sender id = s := by
  cases hfind : s.findEntry id with
  | none => simp only [State.acceptArrives, hfind]
  | some x =>
    simp only [State.acceptArrives, hfind]
    exact if_neg fun ⟨hsender, hown, hstate, hmem⟩ => h hsender x.1 x.2 hfind
      ⟨hown, EditEntry.undecided_iff.1 hstate, List.contains_iff_mem.1 hmem⟩

theorem State.refuseArrives_of_no_vote {s : State} {sender : Station} {id : EditId}
    (h : sender ≠ s.cfg.station → ∀ k e, s.findEntry id = some (k, e) → ¬ e.votedBy sender e.voters) :
    s.refuseArrives sender id = s := by
  cases hfind : s.findEntry id with
  | none => simp only [State.refuseArrives, hfind]
  | some x =>
    simp only [State.refuseArrives, hfind]
    exact if_neg fun ⟨hsender, hown, hstate, hmem⟩ => h hsender x.1 x.2 hfind
      ⟨hown, EditEntry.undecided_iff.1 hstate, List.contains_iff_mem.1 hmem⟩

/-! ### The outcome list (R26) -/

/-- An outcome joins behind the other ids' entries, of which the oldest goes when they are too many. -/
theorem joinOutcomes_eq (q : List OutcomeEntry) (o : OutcomeEntry) :
    joinOutcomes q o
      = (q.filter (fun x => decide (x.id ≠ o.id)) ++ [o]).drop
          ((q.filter (fun x => decide (x.id ≠ o.id))).length + 1 - 8) := by
  have htest : (fun x : OutcomeEntry => x.id != o.id) = fun x => decide (x.id ≠ o.id) := by
    funext x
    simp [bne, beq_eq_decide]
  simp only [joinOutcomes, htest, List.length_append, List.length_singleton]

end Sys2Proof.Machine

namespace Sys2Proof

open Sys2Proof.Machine

/-- Settles O13: the five tests pass, so the entry of R45 goes to the lowest empty index. -/
theorem submitCreatesAnOwnEntry : Obligations.SubmitCreatesAnOwnEntry := by
  unfold Obligations.SubmitCreatesAnOwnEntry
  intro i x s hx hphase hrole hrange hlead hown hlength hid hconflict hroom
  obtain ⟨k, hfree⟩ := Option.isSome_iff_exists.1 (State.freeIndex_isSome.2 hlength)
  obtain ⟨hk, hnone, hbelow⟩ := State.freeIndex_some hfree
  have hpass := State.submitRefusal_of_passing hrole hrange hlead hown hlength hid hconflict hroom
  refine ⟨k, hk, hnone, hbelow, ?_⟩
  rw [exec_of_submits hx hphase, State.submit_of_passing hpass, State.createOwn_of_freeIndex x hfree]
  rfl

/-- Settles O40: an awaited fragment is stored; the one that completes the set brings the check, whose value and holder decide
what becomes of the entry. Any other DATA is not awaited. -/
theorem fragmentsAreStoredThenChecked : Obligations.FragmentsAreStoredThenChecked := by
  unfold Obligations.FragmentsAreStoredThenChecked
  intro sender id fragment records s hears
  rw [exec_dataArrival_of_hears hears]
  refine ⟨fun k e start count check hown hprop hfind hstate ht hj hnew hsize => ?awaited, fun h => ?other⟩
  case awaited =>
    obtain ⟨hat, rfl⟩ := State.findEntry_some hfind
    have hk := State.entryAt_lt hat
    have hcount : e.target.reservation = count.toNat := by rw [ht]; rfl
    have hawaits : e.awaitsFragment fragment.toNat records := by
      rw [EditEntry.awaitsFragment, hcount]
      exact ⟨hstate, hj, hnew, hsize⟩
    have ht' : (e.withFragment fragment.toNat records).target = .palette start count check := ht
    rw [State.dataArrives_of_fromProposer (s := s.goodReception) (State.fromProposer_iff.2 ⟨hown, hprop⟩) hfind]
    refine ⟨_, rfl, fun hmissing => ?incomplete, fun hall hcheck => ?agreeing, fun hall hcheck => ?differing⟩
    case incomplete =>
      rw [← holdsAll_eq_false_iff, ← hcount] at hmissing
      rw [State.storeFragment_of_incomplete k hawaits hmissing]
      exact ⟨State.entryAt_putEntry_self hk _, rfl⟩
    case agreeing =>
      rw [← holdsAll_iff, ← hcount] at hall
      rw [State.storeFragment_of_complete k hawaits hall]
      refine ⟨fun hh => ?_, fun hh => ?_⟩
      · rw [State.checkFragments_agreeing_voter k ht' hcheck hh, State.entryAt_enter, if_pos ⟨rfl, hk⟩]
        rfl
      · rw [State.checkFragments_agreeing_observer k ht' hcheck hh, State.entryAt_enter, if_pos ⟨rfl, hk⟩]
        rfl
    case differing =>
      rw [← holdsAll_iff, ← hcount] at hall
      rw [State.storeFragment_of_complete k hawaits hall]
      by_cases hh : e.holding = .voter
      · rw [State.checkFragments_differing_voter k ht' hcheck hh, State.entryAt_dropEntry, if_pos ⟨rfl, hk⟩,
          State.dropEntry_refusals, State.dropEntry_events, State.refuse_events, State.refuse_timer]
        exact ⟨rfl, fun _ => ⟨State.refuse_refusals_congr (s := s) (t := s.goodReception.putEntry k _) rfl _ _, rfl⟩,
          fun hobserver => absurd (hh.symm.trans hobserver) (by decide)⟩
      · rw [State.checkFragments_differing_other k ht' hcheck hh, State.entryAt_removeEntry, if_pos ⟨rfl, hk⟩]
        exact ⟨rfl, fun hv => absurd hv hh, fun _ => ⟨rfl, rfl⟩⟩
  case other =>
    refine congrArg Host.Outcome.next (State.dataArrives_of_not_awaited fun hfrom k e hfind => ?_)
    obtain ⟨hown, hprop⟩ := State.fromProposer_iff.1 hfrom
    have hnone := (h.resolve_left hown).resolve_left (not_not_intro hprop)
    exact EditEntry.not_awaitsFragment_iff.2 (hnone k e hfind)

/-- Settles O41: a vote on an own undecided entry goes through the proposer's decisions of R52 and R54, every other vote is none,
and an outcome joins behind the other ids' entries. -/
theorem votesDecideAnOwnEntry : Obligations.VotesDecideAnOwnEntry := by
  unfold Obligations.VotesDecideAnOwnEntry
  refine ⟨fun sender id reason s hears => ?votes, fun q o _ => ?outcomes⟩
  case votes =>
    rw [exec_acceptArrival_of_hears hears, exec_refuseArrival_of_hears hears]
    refine ⟨fun k e hsender hfind hown hstate => ⟨fun hpending => ?accept, fun hvoter => ?refuse⟩,
      fun h => congrArg Host.Outcome.next (State.acceptArrives_of_no_vote fun hsender k e hfind => ?noAccept),
      fun h => congrArg Host.Outcome.next (State.refuseArrives_of_no_vote fun hsender k e hfind => ?noRefuse)⟩
    case accept =>
      obtain ⟨hat, rfl⟩ := State.findEntry_some hfind
      have hk := State.entryAt_lt hat
      have hput := State.entryAt_putEntry_self (s := s.goodReception) hk (some (e.acceptedBy sender))
      rw [State.acceptArrives_of_vote (s := s.goodReception) hfind hsender ⟨hown, hstate, hpending⟩]
      refine ⟨_, rfl, State.tryTake_events _ _, fun hdecided => ?decided, fun hnot => ?undecided⟩
      case decided =>
        have ⟨_, hrest, _⟩ := hdecided
        rw [State.tryTake_of_decided hput ((State.takeDecided_acceptedBy_iff hown hpending).2 hdecided),
          State.recordOutcome_entryAt, State.recordOutcome_outcomes, State.entryAt_enter, if_pos ⟨rfl, hk⟩, EditEntry.acceptedBy_of_mem hpending, hrest]
        exact ⟨rfl, rfl⟩
      case undecided =>
        rw [State.tryTake_of_not_decided hput (mt (State.takeDecided_acceptedBy_iff hown hpending).1 hnot), hput,
          EditEntry.acceptedBy_of_mem hpending]
        exact ⟨rfl, rfl⟩
    case refuse =>
      obtain ⟨hat, rfl⟩ := State.findEntry_some hfind
      rw [State.refuseArrives_of_vote (s := s.goodReception) hfind hsender ⟨hown, hstate, hvoter⟩]
      exact ⟨_, rfl, s.goodReception.decideDrop_effect (State.entryAt_lt hat) e .refused (some sender)⟩
    case noAccept => exact EditEntry.not_votedBy_iff.2 (h.resolve_left hsender k e hfind)
    case noRefuse => exact EditEntry.not_votedBy_iff.2 (h.resolve_left hsender k e hfind)
  case outcomes =>
    rw [joinOutcomes_eq]
    refine ⟨fun hlength => ?_, fun oldest rest hkept hlength => ?_⟩
    · rw [Nat.sub_eq_zero_of_le hlength, List.drop_zero]
    · rw [hlength, hkept]
      rfl

end Sys2Proof

/-! # Beacons, farewells and the loss of a peer at the Peer Table (R51, R74 to R76, R78, R80, R83, R85) -/

namespace Sys2Proof.Machine

open Sys2Proof

/-! ### The loss of a peer over the edit table (R51) -/

/-- The station stands in neither voter set of the entry. -/
def EditEntry.freeOf (e : EditEntry) (st : Station) : Prop :=
  st ∉ e.voters.getD [] ∧ st ∉ e.pendingVoters.getD []

/-- The entry after R51: a station leaves both of its voter sets. -/
def EditEntry.withoutVoter (e : EditEntry) (st : Station) : EditEntry :=
  { e with voters := e.voters.map (·.filter (· != st)), pendingVoters := e.pendingVoters.map (·.filter (· != st)) }

theorem not_mem_getD_filter_ne (st : Station) (set : Option (List Station)) :
    st ∉ (set.map (·.filter (· != st))).getD [] := by
  cases set <;> simp

theorem EditEntry.withoutVoter_freeOf (e : EditEntry) (st : Station) : (e.withoutVoter st).freeOf st :=
  ⟨not_mem_getD_filter_ne st e.voters, not_mem_getD_filter_ne st e.pendingVoters⟩

/-- What the loss does at one entry: nothing where the station has no vote, and else it leaves the sets, which may decide a take. -/
theorem loseVoterAt_cases (st : Station) (i : Nat) (e : EditEntry) (s : State) :
    (loseVoterAt st i e s = s ∧ (e.holding = .own → e.freeOf st))
    ∨ loseVoterAt st i e s = s.putEntry i (some (e.withoutVoter st))
    ∨ loseVoterAt st i e s = (s.putEntry i (some (e.withoutVoter st))).tryTake i := by
  simp only [loseVoterAt]
  split
  · split
    · exact Or.inr (Or.inr rfl)
    · exact Or.inr (Or.inl rfl)
  · next h =>
    refine Or.inl ⟨rfl, fun hown => ?_⟩
    simpa [EditEntry.freeOf, hown] using h

/-- A decision to take changes the edit unit and the mark of the attempt alone. -/
theorem State.tryTake_frame (s : State) (i : Nat) :
    ∃ ed a, s.tryTake i = { s with edit := ed, bus := { s.bus with attempt := a } } := by
  rcases s.tryTake_cases i with h | ⟨e, -, -, -, -, -, h⟩
  · exact ⟨s.edit, s.bus.attempt, h⟩
  · obtain ⟨a, ha⟩ := State.recordOutcome_eq (s.enter i { e with state := .taken, late := false } (some .take))
      ⟨e.id, true, none, none⟩
    rw [h, ha, State.enter_bus, Bus.withdraw_eq]
    exact ⟨_, _, rfl⟩

theorem State.tryTake_entryAt_of_ne (s : State) {i j : Nat} (h : j ≠ i) : (s.tryTake i).entryAt j = s.entryAt j := by
  rcases s.tryTake_cases i with ht | ⟨e, -, -, -, -, -, ht⟩
  · rw [ht]
  · rw [ht, State.recordOutcome_entryAt, State.entryAt_enter, if_neg fun hij => h hij.1.symm]

/-- A decision to take leaves the voter sets of the entry. -/
theorem State.tryTake_keeps_freeOf {s : State} {i : Nat} {st : Station} {e : EditEntry} (he : s.entryAt i = some e)
    (hfree : e.freeOf st) : ∃ e', (s.tryTake i).entryAt i = some e' ∧ e'.freeOf st := by
  rcases s.tryTake_cases i with ht | ⟨x, hx, -, -, -, -, ht⟩
  · exact ⟨e, by rw [ht, he], hfree⟩
  · obtain rfl : e = x := Option.some.inj (he.symm.trans hx)
    refine ⟨{ e with state := .taken, late := false, owed := some ⟨.take, 0⟩ }, ?_, hfree⟩
    rw [ht, State.recordOutcome_entryAt, State.entryAt_enter, if_pos ⟨rfl, State.entryAt_lt he⟩]
    rfl

theorem loseVoterAt_frame (st : Station) (i : Nat) (e : EditEntry) (s : State) :
    ∃ ed a, loseVoterAt st i e s = { s with edit := ed, bus := { s.bus with attempt := a } } := by
  rcases loseVoterAt_cases st i e s with ⟨h, -⟩ | h | h
  · exact ⟨s.edit, s.bus.attempt, h⟩
  · exact ⟨_, s.bus.attempt, h⟩
  · rw [h]
    exact State.tryTake_frame (s.putEntry i (some (e.withoutVoter st))) i

theorem loseVoterAt_entryAt_of_ne (st : Station) (i : Nat) (e : EditEntry) (s : State) (j : Nat) (h : j ≠ i) :
    (loseVoterAt st i e s).entryAt j = s.entryAt j := by
  have hput : (s.putEntry i (some (e.withoutVoter st))).entryAt j = s.entryAt j := by
    rw [State.entryAt_putEntry, if_neg fun hij => h hij.1.symm]
  rcases loseVoterAt_cases st i e s with ⟨hl, -⟩ | hl | hl
  · rw [hl]
  · rw [hl, hput]
  · rw [hl, State.tryTake_entryAt_of_ne _ h, hput]

/-- After the loss at its index, an own entry has the station in neither set. -/
theorem loseVoterAt_frees {st : Station} {i : Nat} {e e' : EditEntry} {s : State} (he : s.entryAt i = some e)
    (h : (loseVoterAt st i e s).entryAt i = some e') (hown : e'.holding = .own) : e'.freeOf st := by
  have hput : (s.putEntry i (some (e.withoutVoter st))).entryAt i = some (e.withoutVoter st) :=
    State.entryAt_putEntry_self (State.entryAt_lt he) _
  rcases loseVoterAt_cases st i e s with ⟨hl, hfree⟩ | hl | hl
  · rw [hl, he] at h
    obtain rfl := Option.some.inj h
    exact hfree hown
  · rw [hl, hput] at h
    obtain rfl := Option.some.inj h
    exact e.withoutVoter_freeOf st
  · obtain ⟨x, hx, hfree⟩ := State.tryTake_keeps_freeOf hput (e.withoutVoter_freeOf st)
    rw [hl, hx] at h
    obtain rfl := Option.some.inj h
    exact hfree

/-- The loss of a peer changes the edit unit and the mark of the attempt alone. -/
theorem State.loseVoter_frame (s : State) (st : Station) :
    ∃ ed a, s.loseVoter st = { s with edit := ed, bus := { s.bus with attempt := a } } := by
  refine State.forEntries_induction (P := fun t => ∃ ed a, t = { s with edit := ed, bus := { s.bus with attempt := a } })
    ⟨s.edit, s.bus.attempt, rfl⟩ ?_
  rintro i e t ⟨_, _, rfl⟩ -
  exact loseVoterAt_frame st i e _

theorem State.loseVoter_entryAt_of_none {s : State} (st : Station) {k : Nat} (h : s.entryAt k = none) :
    (s.loseVoter st).entryAt k = none := by
  refine State.forEntries_induction (P := fun t => t.entryAt k = none) h fun i e t ht hi => ?_
  have hne : k ≠ i := fun hki => by
    rw [← hki, ht] at hi
    cases hi
  rw [loseVoterAt_entryAt_of_ne st i e t k hne, ht]

/-- R51: after the loss of a peer no own entry has it in a voter set. -/
theorem State.loseVoter_frees {s : State} {st : Station} {k : Nat} {e : EditEntry}
    (h : (s.loseVoter st).entryAt k = some e) (hown : e.holding = .own) : e.freeOf st := by
  cases hk : s.entryAt k with
  | none =>
    rw [State.loseVoter_entryAt_of_none st hk] at h
    cases h
  | some x =>
    obtain ⟨t, -, ht, hlast⟩ := State.entryAt_forEntries (P := fun _ => True) trivial (fun _ _ _ _ _ => trivial)
      (loseVoterAt_entryAt_of_ne st) hk
    exact loseVoterAt_frees ht (hlast.symm.trans h) hown

/-- A peer's entry changes, the change is posted under its number and handed on as a loss (R76, R78, R80). -/
theorem State.putPeer_post_loseVoter {s t : State} {n : Nat} {q : Peer} {kind : EventKind} {st : Station}
    (hn : n ≠ s.cfg.station.toNat) (ht : t = ((s.putPeer n q).post kind (some st)).loseVoter st) :
    t.peers = s.peers.setIfInBounds n q
    ∧ t.events = joinQueue s.events ⟨kind, s.timer.frame, some st, none, none, none, false⟩
    ∧ (∀ k e, t.entryAt k = some e → e.holding = .own → e.freeOf st)
    ∧ t.wall = s.wall ∧ t.timer = s.timer ∧ t.ctl = s.ctl ∧ t.cfg = s.cfg := by
  obtain ⟨ed, a, hframe⟩ := State.loseVoter_frame ((s.putPeer n q).post kind (some st)) st
  rw [← ht, State.putPeer_of_ne q hn] at hframe
  refine ⟨?_, ?_, fun k e he hown => State.loseVoter_frees (ht ▸ he) hown, ?_, ?_, ?_, ?_⟩ <;> rw [hframe] <;> rfl

/-! ### The offset (R2, R83) -/

/-- The value of an offset, with the far bound and the frame's length written out. -/
theorem offsetValue_eq (c : ConfigRecord) (own peer : Time) :
    offsetValue c own peer =
      if (own.frame - peer.frame).toInt ≤ -1048576 then .farAhead
      else if 1048576 ≤ (own.frame - peer.frame).toInt then .farBehind
      else .value ((own.frame - peer.frame).toInt * ((c.lineLength.toNat * c.lines.toNat : Nat) : Int)
        + ((own.phase : Int) - (peer.phase : Int))) := rfl

/-- The pairing of R83 changes the offset record alone. -/
theorem Peer.pair_eq (c : ConfigRecord) (b : Beacon) (p : Peer) :
    p.pair c b = { p with
      offset := if p.capture.valid = true ∧ b.stampValid = true ∧ b.stampFrame = p.capture.senderFrame then
        some ⟨offsetValue c p.capture.own ⟨b.stampFrame, b.stampPhase.toNat⟩, p.capture.own,
          ⟨b.stampFrame, b.stampPhase.toNat⟩, true⟩
      else p.offset } := by
  unfold Peer.pair
  split <;> rfl

/-! ### The steps of a beacon on its entry (R75, R85) -/

theorem Peer.hear_eq (p : Peer) :
    p.hear = { p with state := if p.state = .heard ∨ p.state = .live then .live else .heard, misses := 0, seen := true } := by
  unfold Peer.hear
  cases p.state <;> rfl

theorem Peer.liveMember_iff {p : Peer} {r : Reported} (h : p.reported = some r) :
    p.liveMember = true ↔ p.state = .live ∧ r.role = .member := by
  simp [Peer.liveMember, Peer.reportedRole, h]

/-- The verdict of R85 is all that judging changes. -/
theorem State.judge_eq (s : State) (b : Beacon) {p : Peer} {r : Reported} (h : p.reported = some r) :
    s.judge b p = { p with
      verdict := if s.ctl.role = .member ∧ p.state = .live ∧ r.role = .member ∧ b.frame = s.timer.frame then
        (if b.version = s.wall.version then .agree else .differ) else p.verdict } := by
  have hcond : (s.ctl.role = .member ∧ p.liveMember = true ∧ b.frame = s.frame)
      ↔ (s.ctl.role = .member ∧ p.state = .live ∧ r.role = .member ∧ b.frame = s.timer.frame) := by
    rw [Peer.liveMember_iff h, and_assoc]
    rfl
  unfold State.judge
  simp only [hcond]
  split <;> rfl

/-! ### The arrival of a beacon and of a FAREWELL (R74, R78) -/

theorem stationOf_toNat (st : Station) : stationOf st.toNat = st := by
  simp [stationOf]

theorem exec_beaconArrival_of_attempt {s : State} {time : Time} {usable : Bool} (hr : s.ctl.role.receives = true)
    (ha : s.bus.attempt = some (.receiving time usable)) {sender : Station} (hne : sender ≠ s.cfg.station) (b : Beacon) :
    exec (.beaconArrival sender b) s = .next (s.goodReception.beaconArrives sender b time usable) := by
  refine congrArg Host.Outcome.next ?_
  rw [State.reception_of_attempt hr ha]
  exact if_neg hne

theorem exec_farewellArrival_of_hears {s : State} (h : s.hears) (sender station : Station) :
    exec (.farewellArrival sender station) s = .next (s.goodReception.farewellArrives sender station) :=
  congrArg Host.Outcome.next (State.arrive_of_hears _ h)

section Arrival

variable {s : State} {sender : Station} {p : Peer}

theorem State.peerAt_of_sender (hne : sender ≠ s.cfg.station) (hp : s.peers[sender.toNat]? = some p) :
    s.peerAt sender.toNat = some p := by
  rw [State.peerAt_of_ne (mt BitVec.eq_of_toNat_eq hne), hp]

theorem State.compatible_iff {b : Beacon} :
    s.compatible b = true ↔ b.lineLength = s.cfg.lineLength ∧ b.lines = s.cfg.lines := by
  simp [State.compatible]

theorem State.beaconArrives_of_compatible {b : Beacon} {role : Role} (time : Time) (usable : Bool)
    (hp : s.peerAt sender.toNat = some p) (hrole : Role.ofBeacon b.role = some role) (hc : s.compatible b = true) :
    s.beaconArrives sender b time usable = s.compatibleBeacon sender.toNat p b role time usable := by
  simp only [State.beaconArrives, hrole, hp, if_pos hc]

theorem State.beaconArrives_of_mismatching {b : Beacon} {role : Role} (time : Time) (usable : Bool)
    (hp : s.peerAt sender.toNat = some p) (hrole : Role.ofBeacon b.role = some role) (hc : ¬ s.compatible b = true) :
    s.beaconArrives sender b time usable = s.mismatchingBeacon sender.toNat p b role := by
  simp only [State.beaconArrives, hrole, hp, if_neg hc]

theorem State.farewellArrives_of_ignored {station : Station} (h : station ≠ sender ∨ sender = s.cfg.station) :
    s.farewellArrives sender station = s := if_pos h

theorem State.farewellArrives_of_absent (hne : sender ≠ s.cfg.station) (hp : s.peerAt sender.toNat = some p)
    (ha : p.state = .absent) : s.farewellArrives sender sender = s := by
  simp [State.farewellArrives, State.own, hne, hp, ha]

theorem State.farewellArrives_of_present (hne : sender ≠ s.cfg.station) (hp : s.peerAt sender.toNat = some p)
    (ha : p.state ≠ .absent) :
    s.farewellArrives sender sender = ((s.putPeer sender.toNat p.clear).post .peerLeft (some sender)).loseVoter sender := by
  simp [State.farewellArrives, State.own, hne, hp, ha]

end Arrival

/-- The entry that the five steps of R75 leave. -/
def State.heardEntry (s : State) (p : Peer) (b : Beacon) (role : Role) (time : Time) (usable : Bool) : Peer :=
  s.judge b (((p.hear).pair s.cfg b).note b role time usable)

/-- The entry after the five steps of R75, field by field. -/
theorem State.heardEntry_eq (s : State) (p : Peer) (b : Beacon) (role : Role) (time : Time) (usable : Bool) :
    s.heardEntry p b role time usable =
      { state := if p.state = .heard ∨ p.state = .live then .live else .heard
        seen := true, misses := 0, reported := some ⟨role, b.locked, b.version, b.frame⟩
        capture := ⟨b.frame, time, usable⟩, offset := (p.pair s.cfg b).offset
        verdict := if s.ctl.role = .member ∧ (if p.state = .heard ∨ p.state = .live then PeerState.live else .heard) = .live
            ∧ role = .member ∧ b.frame = s.timer.frame then
          (if b.version = s.wall.version then .agree else .differ) else p.verdict } := by
  rw [State.heardEntry, State.judge_eq s b rfl, Peer.pair_eq, Peer.pair_eq, Peer.hear_eq]
  rfl

/-- Beside the entry, a compatible beacon posts PEER-LIVE alone. -/
theorem State.compatibleBeacon_eq {s : State} {sender : Station} (hn : sender.toNat ≠ s.cfg.station.toNat) (p : Peer)
    (b : Beacon) (role : Role) (time : Time) (usable : Bool) :
    s.compatibleBeacon sender.toNat p b role time usable = { s with
      peers := s.peers.setIfInBounds sender.toNat (s.heardEntry p b role time usable)
      events := if p.state = .heard then
        joinQueue s.events ⟨.peerLive, s.timer.frame, some sender, none, none, none, false⟩ else s.events } := by
  simp only [State.compatibleBeacon, State.putPeer_of_ne _ hn, stationOf_toNat]
  split <;> rfl

/-- A further mismatching beacon from an INCOMPATIBLE peer changes its entry alone. -/
theorem State.mismatchingBeacon_of_incompatible {s : State} {n : Nat} (hn : n ≠ s.cfg.station.toNat) {p : Peer}
    (b : Beacon) (role : Role) (h : p.state = .incompatible) :
    s.mismatchingBeacon n p b role = { s with peers := s.peers.setIfInBounds n (p.mismatch b role) } := by
  simp only [State.mismatchingBeacon, if_pos h, State.putPeer_of_ne _ hn]

/-- The first mismatching beacon of a peer is posted and handed on as a loss. -/
theorem State.mismatchingBeacon_of_other {s : State} {sender : Station} {p : Peer} (b : Beacon) (role : Role)
    (h : p.state ≠ .incompatible) :
    s.mismatchingBeacon sender.toNat p b role
      = ((s.putPeer sender.toNat (p.mismatch b role)).post .peerIncompatible (some sender)).loseVoter sender := by
  simp only [State.mismatchingBeacon, if_neg h, stationOf_toNat]

end Sys2Proof.Machine

namespace Sys2Proof

open Sys2Proof.Machine

/-- Settles O35: the value has the far marks of R2 as its bounds, and the pairing forms it under the test of R83 alone. -/
theorem offsetIsTheDifferenceOfTheTimes : Obligations.OffsetIsTheDifferenceOfTheTimes :=
  ⟨offsetValue_eq, Peer.pair_eq⟩

/-- Settles O33: the entry is the one that the five steps leave, and the rest of the state is that after a good reception. -/
theorem compatibleBeaconUpdatesItsEntry : Obligations.CompatibleBeaconUpdatesItsEntry := by
  unfold Obligations.CompatibleBeaconUpdatesItsEntry
  intro sender b s p role time usable hreceives hattempt hne hp hrole hlength hlines
  have hn : sender.toNat ≠ s.goodReception.cfg.station.toNat := mt BitVec.eq_of_toNat_eq hne
  have harrives := State.beaconArrives_of_compatible (s := s.goodReception) time usable
    (State.peerAt_of_sender hne hp) hrole (State.compatible_iff.2 ⟨hlength, hlines⟩)
  rw [exec_beaconArrival_of_attempt hreceives hattempt hne, harrives, State.compatibleBeacon_eq hn]
  refine ⟨_, s.goodReception.heardEntry p b role time usable, rfl, rfl, ?_⟩
  rw [State.heardEntry_eq, Peer.pair_eq]
  and_intros <;> rfl

/-- Settles O34: the entry is the mismatching one; from any other state the change is posted and handed on as a loss. -/
theorem mismatchingBeaconMakesAnEntryIncompatible : Obligations.MismatchingBeaconMakesAnEntryIncompatible := by
  unfold Obligations.MismatchingBeaconMakesAnEntryIncompatible
  rintro sender b s p role ⟨hreceives, time, usable, hattempt⟩ hne hp hrole hgeometry
  have hn : sender.toNat ≠ s.goodReception.cfg.station.toNat := mt BitVec.eq_of_toNat_eq hne
  have hmismatch : ¬ s.goodReception.compatible b = true := by
    rw [State.compatible_iff, not_and_or]
    exact hgeometry
  rw [exec_beaconArrival_of_attempt hreceives hattempt hne,
    State.beaconArrives_of_mismatching (s := s.goodReception) time usable (State.peerAt_of_sender hne hp) hrole hmismatch]
  by_cases hstate : p.state = .incompatible
  case pos =>
    rw [State.mismatchingBeacon_of_incompatible hn b role hstate]
    exact ⟨_, p.mismatch b role, rfl, rfl, rfl, rfl, rfl, rfl, rfl, rfl, rfl, fun _ => ⟨rfl, rfl⟩,
      fun h => absurd hstate h, rfl, rfl, rfl, rfl⟩
  case neg =>
    rw [State.mismatchingBeacon_of_other b role hstate]
    obtain ⟨hpeers, hevents, hvoters, hrest⟩ :=
      State.putPeer_post_loseVoter (q := p.mismatch b role) (kind := .peerIncompatible) (st := sender) hn rfl
    exact ⟨_, p.mismatch b role, rfl, hpeers, rfl, rfl, rfl, rfl, rfl, rfl, rfl, fun h => absurd h hstate,
      fun _ => ⟨hevents, hvoters⟩, hrest⟩

/-- Settles O36: a FAREWELL is ignored in three cases and else clears the entry, which is posted and handed on as a loss. -/
theorem farewellClearsItsEntry : Obligations.FarewellClearsItsEntry := by
  unfold Obligations.FarewellClearsItsEntry
  intro sender station s hears
  rw [exec_farewellArrival_of_hears hears]
  refine ⟨fun hignored => ?ignored, ?fromPeer⟩
  case ignored => exact congrArg Host.Outcome.next (State.farewellArrives_of_ignored (s := s.goodReception) hignored)
  case fromPeer =>
    rintro p rfl hne hp
    have hat := State.peerAt_of_sender (s := s.goodReception) hne hp
    refine ⟨fun habsent => ?absent, fun hpresent => ?present⟩
    case absent =>
      exact congrArg Host.Outcome.next (State.farewellArrives_of_absent (s := s.goodReception) hne hat habsent)
    case present =>
      rw [State.farewellArrives_of_present (s := s.goodReception) hne hat hpresent]
      exact ⟨_, rfl, State.putPeer_post_loseVoter (s := s.goodReception) (mt BitVec.eq_of_toNat_eq hne) rfl⟩

end Sys2Proof

/-! # The adopt of a peer (R92, R106) -/

namespace Sys2Proof.Machine

open Sys2Proof

/-! ### The limits of a correction (R92) -/

/-- The values that give the limits: the line has a clock, and the active lines leave two more. -/
theorem ConfigRecord.limits_of_inRange {c : ConfigRecord} (h : c.values.inRange = true) : 0 < c.l ∧ c.h + 2 ≤ c.n := by
  simp only [Geometry.inRange, Bool.and_eq_true, decide_eq_true_eq] at h
  simp only [ConfigRecord.values] at h
  simp only [ConfigRecord.l, ConfigRecord.h, ConfigRecord.n]
  omega

theorem ConfigRecord.p_pos {c : ConfigRecord} (h : c.values.inRange = true) : 0 < c.p := by
  obtain ⟨hl, hh⟩ := c.limits_of_inRange h
  exact Nat.mul_pos hl (by omega)

theorem ConfigRecord.shorteningLimit_nonneg {c : ConfigRecord} (h : c.values.inRange = true) : 0 ≤ c.shorteningLimit := by
  obtain ⟨-, hh⟩ := c.limits_of_inRange h
  exact Int.mul_nonneg (by omega) (Int.natCast_nonneg _)

/-! ### The two forms (R106) -/

theorem adoptForm_of_shortening {c : ConfigRecord} {d : Nat} (hpart : ((d % c.p : Nat) : Int) ≤ c.shorteningLimit)
    (hjump : 1 + d / c.p ≠ 4294967296) :
    adoptForm c d = (-((d % c.p : Nat) : Int), BitVec.ofNat 32 (1 + d / c.p)) :=
  if_pos ⟨hpart, hjump⟩

theorem adoptForm_of_lengthening {c : ConfigRecord} {d : Nat}
    (h : ¬ (((d % c.p : Nat) : Int) ≤ c.shorteningLimit ∧ 1 + d / c.p ≠ 4294967296)) :
    adoptForm c d = ((c.p : Int) - ((d % c.p : Nat) : Int),
      if (2 + d / c.p) % 4294967296 = 0 then 4294967295 else BitVec.ofNat 32 ((2 + d / c.p) % 4294967296)) :=
  if_neg h

/-- A shortening by `part` is tested against the limit; a lengthening is by at least one clock, as `part` is below P. -/
theorem adoptForm_correction_within {c : ConfigRecord} (d : Nat) (h : c.values.inRange = true) :
    -c.shorteningLimit ≤ (adoptForm c d).1 ∧ (adoptForm c d).1 ≤ c.p := by
  have hlimit := c.shorteningLimit_nonneg h
  have hpart : d % c.p < c.p := Nat.mod_lt d (c.p_pos h)
  by_cases hshort : ((d % c.p : Nat) : Int) ≤ c.shorteningLimit ∧ 1 + d / c.p ≠ 4294967296
  case pos =>
    rw [adoptForm_of_shortening hshort.1 hshort.2]
    dsimp only
    omega
  case neg =>
    rw [adoptForm_of_lengthening hshort]
    dsimp only
    omega

/-- A frame number is zero only for the multiples of 2^32. -/
theorem frameNo_ofNat_ne_zero {k : Nat} (hpos : 0 < k) (hlt : k < 4294967296) : (BitVec.ofNat 32 k : FrameNo) ≠ 0 := by
  intro hzero
  have hmod : k % 4294967296 = 0 := by simpa using congrArg BitVec.toNat hzero
  omega

/-- The advance of an adopt moves the frame number: the jumps of 2^32 and of 0 are the ones that R106 replaces. -/
theorem adoptForm_advance_ne_zero {c : ConfigRecord} {d : Nat} (hd : d < 4294967296 * c.p) : (adoptForm c d).2 ≠ 0 := by
  have hwhole : d / c.p < 4294967296 := Nat.div_lt_of_lt_mul (Nat.mul_comm _ c.p ▸ hd)
  by_cases hshort : ((d % c.p : Nat) : Int) ≤ c.shorteningLimit ∧ 1 + d / c.p ≠ 4294967296
  case pos =>
    obtain ⟨hpart, hjump⟩ := hshort
    rw [adoptForm_of_shortening hpart hjump]
    exact frameNo_ofNat_ne_zero (Nat.add_pos_left Nat.one_pos _) (by omega)
  case neg =>
    rw [adoptForm_of_lengthening hshort]
    dsimp only
    split
    next => decide
    next hk => exact frameNo_ofNat_ne_zero (by omega) (by omega)

end Sys2Proof.Machine

namespace Sys2Proof

open Sys2Proof.Machine

/-- Settles O53: the two forms are the branches of R106, and each keeps the limits of R92 and moves the frame number. -/
theorem adoptTakesTheShorteningOrTheLengtheningForm : Obligations.AdoptTakesTheShorteningOrTheLengtheningForm := by
  unfold Obligations.AdoptTakesTheShorteningOrTheLengtheningForm
  intro c d hrange hd
  obtain ⟨hlower, hupper⟩ := adoptForm_correction_within d hrange
  exact ⟨adoptForm_of_shortening, adoptForm_of_lengthening, hlower, hupper, adoptForm_advance_ne_zero hd⟩

end Sys2Proof

/-! # The offer of a dump (R140) -/

namespace Sys2Proof.Machine

open Sys2Proof

theorem exec_dumpRequestArrival_of_hears {s : State} (h : s.hears) (sender requester : Station) :
    exec (.dumpRequestArrival sender requester) s = .next (s.goodReception.dumpRequestArrives sender requester) :=
  congrArg Host.Outcome.next (State.arrive_of_hears _ h)

/-- R140: the five conditions of an eligible station. -/
theorem State.eligible_iff {s : State} :
    s.eligible = true ↔ s.ctl.role = .member ∧ s.wall.valid = true ∧ s.ctl.stale = false ∧ s.catchUp.req.state = .idle
      ∧ s.catchUp.resp.state = .idle := by
  simp [State.eligible, State.catchingUp, and_assoc]

/-- A request that names its sender, under another number than the own one, is answered by an eligible station's offer. -/
theorem State.dumpRequestArrives_of_eligible {s : State} {sender : Station} (hne : sender ≠ s.cfg.station)
    (h : s.eligible = true) :
    s.dumpRequestArrives sender sender = s.setResp
      { Responder.reset with state := .offering, requester := some sender, owed := some ⟨.dumpBegin, 0⟩ } := by
  simp [State.dumpRequestArrives, State.own, hne, h]

/-- A request is ignored when it fails the check or when the station is not eligible. -/
theorem State.dumpRequestArrives_of_ignored {s : State} {sender requester : Station}
    (h : ¬ (requester = sender ∧ requester ≠ s.cfg.station ∧ s.eligible = true)) :
    s.dumpRequestArrives sender requester = s := by
  unfold State.dumpRequestArrives
  split
  next => rfl
  next hcheck =>
    obtain ⟨hsender, hown⟩ := not_or.1 hcheck
    exact if_neg fun heligible => h ⟨not_not.1 hsender, hown, heligible⟩

end Sys2Proof.Machine

namespace Sys2Proof

open Sys2Proof.Machine

/-- Settles O45: a request that passes the check of R140 meets the five conditions of eligibility or is ignored. -/
theorem eligibleMemberOffersADump : Obligations.EligibleMemberOffersADump := by
  unfold Obligations.EligibleMemberOffersADump
  intro sender requester s hears
  rw [exec_dumpRequestArrival_of_hears hears]
  refine ⟨?offered, fun hnot => ?ignored⟩
  case offered =>
    rintro ⟨rfl, hne, heligible⟩
    exact congrArg Host.Outcome.next
      (State.dumpRequestArrives_of_eligible (s := s.goodReception) hne (State.eligible_iff.2 heligible))
  case ignored =>
    refine congrArg Host.Outcome.next (State.dumpRequestArrives_of_ignored (s := s.goodReception) ?_)
    rw [State.eligible_iff]
    exact hnot

end Sys2Proof

/-! # The offer of the transmit scheduler (R152, R153) -/

namespace Sys2Proof.Machine

open Sys2Proof

/-! ### What is offerable -/

theorem Role.transmits_iff {r : Role} : r.transmits = true ↔ r = .align ∨ r = .member ∨ r = .leaving := by
  cases r <;> simp [Role.transmits]

theorem State.offerable_iff {s : State} {o : Owed} :
    s.offerable o = true ↔ (s.ctl.role = .align ∨ s.ctl.role = .member ∨ s.ctl.role = .leaving)
      ∧ ((o.kind ≠ .accept ∧ o.kind ≠ .refuse) ∨ s.ctl.role = .member) := by
  simp [State.offerable, Role.transmits_iff]

/-! ### The first of the lowest rank -/

/-- The message stands in the list behind higher ranks alone and before none lower. -/
def FirstOfLowestRank (x : Source × Owed) (xs : List (Source × Owed)) : Prop :=
  ∃ before after, xs = before ++ x :: after
    ∧ (∀ y ∈ before, x.2.kind.rank < y.2.kind.rank) ∧ (∀ y ∈ after, x.2.kind.rank ≤ y.2.kind.rank)

theorem FirstOfLowestRank.rank_le {x y : Source × Owed} {xs : List (Source × Owed)} (h : FirstOfLowestRank x xs)
    (hy : y ∈ xs) : x.2.kind.rank ≤ y.2.kind.rank := by
  obtain ⟨before, after, rfl, hbefore, hafter⟩ := h
  rcases List.mem_append.1 hy with hy | hy
  · exact (hbefore y hy).le
  · rcases List.mem_cons.1 hy with rfl | hy
    · exact le_rfl
    · exact hafter y hy

/-- A message that joins at the end of the list takes the lead of all when its rank is lower. -/
theorem FirstOfLowestRank.concat_lower {x y : Source × Owed} {xs : List (Source × Owed)} (h : FirstOfLowestRank y xs)
    (hlower : x.2.kind.rank < y.2.kind.rank) : FirstOfLowestRank x (xs ++ [x]) :=
  ⟨xs, [], rfl, fun _ hz => hlower.trans_le (h.rank_le hz), by simp⟩

theorem FirstOfLowestRank.concat_not_lower {x y : Source × Owed} {xs : List (Source × Owed)}
    (h : FirstOfLowestRank y xs) (hnot : ¬ x.2.kind.rank < y.2.kind.rank) : FirstOfLowestRank y (xs ++ [x]) := by
  obtain ⟨before, after, rfl, hbefore, hafter⟩ := h
  refine ⟨before, after ++ [x], by simp, hbefore, fun z hz => ?_⟩
  rcases List.mem_append.1 hz with hz | hz
  · exact hafter z hz
  · rw [List.mem_singleton.1 hz]
    exact not_lt.1 hnot

theorem lowestRank_concat_of_none {xs : List (Source × Owed)} (h : lowestRank xs = none) (x : Source × Owed) :
    lowestRank (xs ++ [x]) = some x := by
  unfold lowestRank at h ⊢
  rw [List.foldl_append, h, List.foldl_cons, List.foldl_nil]

theorem lowestRank_concat_of_some {xs : List (Source × Owed)} {y : Source × Owed} (h : lowestRank xs = some y)
    (x : Source × Owed) :
    lowestRank (xs ++ [x]) = if x.2.kind.rank < y.2.kind.rank then some x else some y := by
  unfold lowestRank at h ⊢
  rw [List.foldl_append, h, List.foldl_cons, List.foldl_nil]

theorem lowestRank_eq_none_iff {xs : List (Source × Owed)} : lowestRank xs = none ↔ xs = [] := by
  refine ⟨fun h => ?_, fun h => h ▸ rfl⟩
  induction xs using List.reverseRecOn with
  | nil => rfl
  | append_singleton xs x _ =>
    cases hxs : lowestRank xs with
    | none => simp [lowestRank_concat_of_none hxs] at h
    | some y =>
      rw [lowestRank_concat_of_some hxs] at h
      split at h <;> simp at h

/-- The scan keeps its choice until a message of lower rank comes: the induction adds one message at the end of the list. -/
theorem firstOfLowestRank_of_lowestRank {xs : List (Source × Owed)} {x : Source × Owed} (h : lowestRank xs = some x) :
    FirstOfLowestRank x xs := by
  induction xs using List.reverseRecOn generalizing x with
  | nil => simp [lowestRank] at h
  | append_singleton xs z ih =>
    cases hxs : lowestRank xs with
    | none =>
      rw [lowestRank_concat_of_none hxs] at h
      obtain rfl := Option.some.inj h
      obtain rfl := lowestRank_eq_none_iff.1 hxs
      exact ⟨[], [], rfl, by simp, by simp⟩
    | some y =>
      rw [lowestRank_concat_of_some hxs] at h
      split at h
      next hlower =>
        obtain rfl := Option.some.inj h
        exact (ih hxs).concat_lower hlower
      next hnot =>
        obtain rfl := Option.some.inj h
        exact (ih hxs).concat_not_lower hnot

/-- The first of the lowest rank among those that pass a test, seen in the whole list: the others stand between them. -/
theorem FirstOfLowestRank.of_filter {p : Source × Owed → Bool} {x : Source × Owed} {xs : List (Source × Owed)}
    (h : FirstOfLowestRank x (xs.filter p)) :
    p x = true ∧ ∃ before after, xs = before ++ x :: after
      ∧ (∀ y ∈ before, p y = true → x.2.kind.rank < y.2.kind.rank)
      ∧ (∀ y ∈ after, p y = true → x.2.kind.rank ≤ y.2.kind.rank) := by
  obtain ⟨before, after, hfilter, hbefore, hafter⟩ := h
  obtain ⟨front, rest, rfl, rfl, hrest⟩ := List.filter_eq_append_iff.1 hfilter
  obtain ⟨skipped, back, rfl, hskipped, hpx, rfl⟩ := List.filter_eq_cons_iff.1 hrest
  refine ⟨hpx, front ++ skipped, back, by simp, fun y hy hpy => ?_,
    fun y hy hpy => hafter y (List.mem_filter.2 ⟨hy, hpy⟩)⟩
  rcases List.mem_append.1 hy with hy | hy
  · exact hbefore y (List.mem_filter.2 ⟨hy, hpy⟩)
  · exact absurd hpy (hskipped y hy)

/-! ### What is offered -/

theorem State.offered_eq_some {s : State} {x : Source × Owed} (h : s.offered = some x) :
    FirstOfLowestRank x (s.owedMessages.filter fun y => s.offerable y.2) :=
  firstOfLowestRank_of_lowestRank h

theorem State.offerable_of_offered_eq_none {s : State} (h : s.offered = none) {y : Source × Owed}
    (hy : y ∈ s.owedMessages) : s.offerable y.2 = false := by
  have hempty := lowestRank_eq_none_iff.1 h
  exact Bool.eq_false_iff.2 (List.filter_eq_nil_iff.1 hempty y hy)

/-! ### The source order (R152) -/

/-- The message of one source, if it owes one. -/
def messageOf (src : Source) (owed : Option Owed) : List (Source × Owed) :=
  (owed.map fun o => (src, o)).toList

/-- The indices in order: one without an entry, or whose entry owes nothing, gives no message. -/
theorem State.entries_owed (s : State) :
    (s.entries.filterMap fun x => x.2.owed.map fun o => (Source.entry x.1, o))
      = (List.range 16).flatMap fun k => messageOf (.entry k) ((s.entryAt k).bind (·.owed)) := by
  rw [State.entries, List.filterMap_filterMap, List.filterMap_eq_flatMap_toList]
  refine List.flatMap_congr fun k _ => ?_
  cases s.entryAt k <;> rfl

theorem State.owedMessages_eq (s : State) :
    s.owedMessages = messageOf .beacon s.bus.beacon ++ messageOf .farewell s.ctl.farewell
      ++ messageOf .refusal (s.edit.refusals.head?.map fun r => ⟨.refuse, r.voids⟩)
      ++ ((List.range 16).flatMap fun k => messageOf (.entry k) ((s.entryAt k).bind (·.owed)))
      ++ (s.edit.outcomes.flatMap fun o => messageOf (.outcome o.id) o.owed)
      ++ messageOf .requester s.catchUp.req.owed ++ messageOf .responder s.catchUp.resp.owed := by
  rw [← State.entries_owed]
  simp only [State.owedMessages, messageOf, List.filterMap_eq_flatMap_toList, Option.map_map, Function.comp_def]

end Sys2Proof.Machine

namespace Sys2Proof

open Sys2Proof.Machine

/-- Settles O27: the offer is the first of the lowest rank among the offerable messages (R153), which stand in the source
order of R152. -/
theorem schedulerOffersTheLowestRankFirst : Obligations.SchedulerOffersTheLowestRankFirst := by
  unfold Obligations.SchedulerOffersTheLowestRankFirst
  intro s
  refine ⟨fun o => State.offerable_iff, fun x h => (State.offered_eq_some h).of_filter,
    fun h y hy => State.offerable_of_offered_eq_none h hy, ?sourceOrder, rfl⟩
  intro source
  have hsource : source = messageOf := by
    funext src owed
    cases owed <;> rfl
  rw [hsource, State.owedMessages_eq]
  cases s.edit.refusals <;> rfl

end Sys2Proof

/-! # The control port: frames, CONFIGURE, and the event queue (R172, R174, R175, R181 to R184) -/

namespace Sys2Proof

open Sys2Proof.Machine

/-! ### The parameter length of each layout (R172, R185) -/

theorem readNone_isSome (r : Request) (params : List Byte) :
    (readNone r params).isSome = true ↔ params.length = 0 := by
  simp [readNone]

theorem readOne_isSome (r : Byte → Request) (params : List Byte) :
    (readOne r params).isSome = true ↔ params.length = 1 := by
  unfold readOne
  split
  case h_1 => simp
  case h_2 hother =>
    refine iff_of_false (by simp) fun hlength => ?_
    obtain ⟨a, rfl⟩ := List.length_eq_one_iff.1 hlength
    exact hother a rfl

theorem readTwo_isSome (r : Byte → Byte → Request) (params : List Byte) :
    (readTwo r params).isSome = true ↔ params.length = 2 := by
  unfold readTwo
  split
  case h_1 => simp
  case h_2 hother =>
    refine iff_of_false (by simp) fun hlength => ?_
    obtain ⟨a, b, rfl⟩ := List.length_eq_two.1 hlength
    exact hother a b rfl

theorem readSubmitPan_isSome (params : List Byte) :
    (readSubmitPan params).isSome = true ↔ params.length = 5 := by
  unfold readSubmitPan
  split
  case h_1 => simp
  case h_2 hother =>
    refine iff_of_false (by simp) fun hlength => ?_
    match params, hlength with
    | [lead, x1, x0, y1, y0], _ => exact hother lead x1 x0 y1 y0 rfl

theorem readGeometry_isSome (params : List Byte) :
    (readGeometry params).isSome = true ↔ params.length = 22 := by
  unfold readGeometry
  split
  case h_1 => simp
  case h_2 hother =>
    refine iff_of_false (by simp) fun hlength => ?_
    match params, hlength with
    | [st, l1, l0, n1, n0, w1, w0, h1, h0, x1, x0, y1, y0, u1, u0, v1, v0, b2, b1, b0, s1, s0], _ =>
      exact hother st l1 l0 n1 n0 w1 w0 h1 h0 x1 x0 y1 y0 u1 u0 v1 v0 b2 b1 b0 s1 s0 rfl

/-- Past the four leading bytes, SUBMIT-PALETTE is read when the rest is 1 to 256 whole records. -/
theorem readSubmitPalette_cons_isSome (lead start c1 c0 : Byte) (rest : List Byte) :
    (readSubmitPalette (lead :: start :: c1 :: c0 :: rest)).isSome = true
      ↔ ∃ k, 1 ≤ k ∧ k ≤ 256 ∧ rest.length = 4 * k := by
  cases hrecords : readRecords rest with
  | none =>
    simp only [readSubmitPalette, hrecords, Option.isSome_none, Bool.false_eq_true, false_iff]
    rintro ⟨k, _, _, hk⟩
    have hread := (readRecords_isSome rest).2 ⟨k, hk⟩
    simp [hrecords] at hread
  | some records =>
    simp only [readSubmitPalette, hrecords, Option.isSome_ite, readRecords_length hrecords]
    constructor
    · rintro ⟨h1, h256⟩
      exact ⟨records.length, h1, h256, rfl⟩
    · rintro ⟨k, h1, h256, hk⟩
      omega

theorem readSubmitPalette_isSome (params : List Byte) :
    (readSubmitPalette params).isSome = true ↔ ∃ k, 1 ≤ k ∧ k ≤ 256 ∧ params.length = 4 + 4 * k := by
  match params with
  | lead :: start :: c1 :: c0 :: rest =>
    rw [readSubmitPalette_cons_isSome]
    refine exists_congr fun k => and_congr_right fun _ => and_congr_right fun _ => ?_
    simp only [List.length_cons]
    omega
  | [] | [_] | [_, _] | [_, _, _] =>
    refine iff_of_false (by simp [readSubmitPalette]) ?_
    rintro ⟨k, _, _, hk⟩
    simp only [List.length_cons, List.length_nil] at hk
    omega

/-- A code and parameters make a command when the code names one and the length is its layout's (R172). -/
theorem readRequest_isSome (code : Byte) (params : List Byte) :
    (readRequest code params).isSome = true ↔ code ∈ commandCodes ∧ requiredLength code params.length := by
  by_cases hcode : code ∈ commandCodes
  case neg =>
    have hnone : readRequest code params = none := by
      simp only [commandCodes, List.mem_cons, List.not_mem_nil, or_false, not_or] at hcode
      simp only [readRequest, hcode, if_false]
    simp [hnone, hcode]
  case pos =>
    rw [and_iff_right hcode]
    simp only [commandCodes, List.mem_cons, List.not_mem_nil, or_false] at hcode
    rcases hcode with rfl | rfl | rfl | rfl | rfl | rfl | rfl | rfl | rfl | rfl | rfl | rfl | rfl
    · exact readNone_isSome _ params
    · exact Option.isSome_map.symm ▸ readGeometry_isSome params
    · exact readNone_isSome _ params
    · exact readNone_isSome _ params
    · exact readSubmitPalette_isSome params
    · exact readSubmitPan_isSome params
    · exact readTwo_isSome _ params
    · exact readTwo_isSome _ params
    · exact readOne_isSome _ params
    · exact readOne_isSome _ params
    · exact readOne_isSome _ params
    · exact readNone_isSome _ params
    · exact readNone_isSome _ params

end Sys2Proof

namespace Sys2Proof.Machine

open Sys2Proof

/-! ### The completion of a transaction (R170, R172) -/

/-- Every control-port row is the completion of a transaction with its frame. -/
theorem exec_controlFrame {i : Instr} {f : List Byte} (s : State) (hi : i.controlFrame = some f) :
    ∃ act, exec i s = .next (s.transact f act) := by
  unfold Instr.controlFrame at hi
  split at hi
  case h_14 => cases hi
  all_goals
    cases hi
    exact ⟨_, rfl⟩

/-! ### CONFIGURE (R174, R175) -/

theorem Geometry.inRange_iff (g : Geometry) :
    g.inRange = true ↔
      g.station.toNat ≤ 31 ∧ 128 ≤ g.lineLength.toNat ∧ g.lineLength.toNat ≤ 8191 ∧ 16 ≤ g.lines.toNat
        ∧ g.lines.toNat ≤ 4095 ∧ 16 ≤ g.width.toNat ∧ g.width.toNat ≤ g.lineLength.toNat - 16 ∧ 8 ≤ g.height.toNat
        ∧ g.height.toNat ≤ g.lines.toNat - 2 ∧ 1 ≤ g.canvasWidth.toNat ∧ 1 ≤ g.canvasHeight.toNat
        ∧ 1 ≤ g.stride.toNat := by
  simp only [Geometry.inRange, Bool.and_eq_true, decide_eq_true_eq]
  omega

theorem exec_configure {f : List Byte} {g : Geometry} {s : State} (hread : readCommandFrame f = some (.configure g))
    (hphase : s.port.phase = .command) :
    exec (.configure f) s = .next { (s.configure g).1 with port := ⟨.response, some (s.configure g).2⟩ } :=
  congrArg Host.Outcome.next (State.transact_command hphase hread rfl)

section Configure

variable {s : State} {g : Geometry}

theorem State.configure_of_frozen (hfrozen : s.cfg.frozen = true) : s.configure g = (s, refused .frozen) := by
  simp [State.configure, hfrozen]

theorem State.configure_of_role (hfrozen : s.cfg.frozen = false) (hrole : s.ctl.role ≠ .offline) :
    s.configure g = (s, refused .state) := by
  simp [State.configure, hfrozen, hrole]

theorem State.configure_of_outOfRange (hfrozen : s.cfg.frozen = false) (hrole : s.ctl.role = .offline)
    (hrange : g.inRange = false) : s.configure g = (s, refused .invalid) := by
  simp [State.configure, hfrozen, hrole, hrange]

theorem State.configure_of_passing (hfrozen : s.cfg.frozen = false) (hrole : s.ctl.role = .offline)
    (hrange : g.inRange = true) : s.configure g = ({ s with cfg := Geometry.record g }, done []) := by
  simp [State.configure, hfrozen, hrole, hrange]

end Configure

/-! ### READ-EVENT and the interrupt line (R183, R184) -/

theorem exec_readEvent {f : List Byte} {s : State} (hread : readCommandFrame f = some .readEvent)
    (hphase : s.port.phase = .command) :
    exec (.readEvent f) s = .next { s.readEvent.1 with port := ⟨.response, some s.readEvent.2⟩ } :=
  congrArg Host.Outcome.next (State.transact_command hphase hread rfl)

theorem State.readEvent_of_cons {s : State} {e : Event} {rest : List Event} (h : s.events = e :: rest) :
    s.readEvent = ({ s with events := rest }, done e.payload) := by
  simp only [State.readEvent, h]

theorem State.readEvent_of_nil {s : State} (h : s.events = []) : s.readEvent = (s, ⟨.empty, none, []⟩) := by
  simp only [State.readEvent, h]

theorem State.interrupt_iff (s : State) : s.interrupt = true ↔ s.events ≠ [] := by
  simp [State.interrupt]

end Sys2Proof.Machine

namespace Sys2Proof

open Sys2Proof.Machine

/-- Settles O7: the frame with its length field is read by its code and parameters when the check agrees, and every
control-port row is a transaction, which refuses a frame that is not read. -/
theorem framesThatFailTheChecksAreRefused : Obligations.FramesThatFailTheChecksAreRefused := by
  unfold Obligations.FramesThatFailTheChecksAreRefused
  refine ⟨fun code params check hlength => ?accepted, fun i f s hi hread hphase => ?refused⟩
  case accepted =>
    rw [readCommandFrame_of_check code params check hlength, ← readRequest_isSome]
    split
    case isTrue hcheck => exact (and_iff_right hcheck).symm
    case isFalse hcheck => exact iff_of_false (by simp) fun h => hcheck h.1
  case refused =>
    obtain ⟨act, hexec⟩ := exec_controlFrame s hi
    rw [hexec, State.transact_bad hphase hread]

/-- Settles O9: the head leaves with its payload, or the response is EMPTY. -/
theorem readEventRemovesTheHead : Obligations.ReadEventRemovesTheHead := by
  unfold Obligations.ReadEventRemovesTheHead
  intro f s hread hphase
  rw [exec_readEvent hread hphase]
  refine ⟨fun e rest hevents => ?head, fun hevents => ?empty⟩
  case head => rw [State.readEvent_of_cons hevents]; rfl
  case empty => rw [State.readEvent_of_nil hevents]

/-- Settles O10: the three tests in their order (frozen, role, ranges), then the whole record. -/
theorem configureTestsThenReplacesTheRecord : Obligations.ConfigureTestsThenReplacesTheRecord := by
  unfold Obligations.ConfigureTestsThenReplacesTheRecord
  intro f g s hread hphase
  rw [exec_configure hread hphase, ← Geometry.inRange_iff]
  refine ⟨fun hfrozen => ?frozen, fun hfrozen hrole => ?role,
    fun hfrozen hrole => ⟨fun hrange => ?passing, fun hrange => ?range⟩⟩
  case frozen => rw [State.configure_of_frozen hfrozen]; rfl
  case role => rw [State.configure_of_role hfrozen hrole]; rfl
  case passing => rw [State.configure_of_passing hfrozen hrole hrange]; rfl
  case range => rw [State.configure_of_outOfRange hfrozen hrole (Bool.eq_false_iff.2 hrange)]; rfl

/-- Settles O51: the two forms of R182, the event that a post builds (R181), and the interrupt line of R184. -/
theorem postedEventsJoinOrMarkTheTail : Obligations.PostedEventsJoinOrMarkTheTail :=
  ⟨fun _ e hroom => joinQueue_of_lt e hroom, fun _ last e hfull => joinQueue_full last e hfull,
    fun _ _ _ _ _ _ => rfl, State.interrupt_iff⟩

end Sys2Proof


/-! # Work that keeps the laws of the lists, the edit table, the peer entries and the lock (R18, R21, R23, R25, R26, R71, R89, R181) -/

namespace Sys2Proof.Machine

open Sys2Proof

/-! ### The edit table by the items its laws speak of -/

/-- What the laws of the edit table read of an entry: its id, its target, and whether it is held as OWN. -/
def EditEntry.kernel (e : EditEntry) : EditId × Target × Bool := (e.id, e.target, decide (e.holding = .own))

/-- The kernel of the entry at an index. -/
def State.kernelAt (s : State) (i : Nat) : Option (EditId × Target × Bool) := (s.entryAt i).map EditEntry.kernel

/-- The total of a weight over the present entries of the table. -/
def State.weight (s : State) (f : EditEntry → Nat) : Nat := ∑ i ∈ Finset.range 16, ((s.entryAt i).map f).getD 0

theorem sum_filterMap_map {α β : Type} (g : α → Option β) (f : β → Nat) (xs : List α) :
    ((xs.filterMap g).map f).sum = (xs.map fun x => ((g x).map f).getD 0).sum := by
  induction xs with
  | nil => rfl
  | cons x xs ih => cases h : g x <;> simp [h, ih]

theorem State.sum_entries (s : State) (f : EditEntry → Nat) : (s.entries.map fun x => f x.2).sum = s.weight f := by
  unfold State.entries State.weight
  rw [sum_filterMap_map, ← List.toFinset_range, List.sum_toFinset _ List.nodup_range]
  congr 2
  funext i
  cases s.entryAt i <;> rfl

theorem length_filter_eq_sum {α : Type} (p : α → Bool) (xs : List α) :
    (xs.filter p).length = (xs.map fun x => if p x then 1 else 0).sum := by
  induction xs with
  | nil => rfl
  | cons x xs ih => by_cases h : p x = true <;> simp [h, ih, Nat.add_comm]

theorem State.reserved_eq (s : State) : s.reserved = s.weight fun e => e.target.reservation :=
  s.sum_entries fun e => e.target.reservation

theorem State.ownCount_eq (s : State) : s.ownCount = s.weight fun e => if e.holding = .own then 1 else 0 := by
  rw [← s.sum_entries]
  unfold State.ownCount
  rw [length_filter_eq_sum]
  simp

/-- The weights that read an entry's kernel alone cannot grow when every index keeps its kernel or is left empty. -/
theorem State.weight_mono {s t : State} {f : EditEntry → Nat} (hf : ∀ a b : EditEntry, a.kernel = b.kernel → f a = f b)
    (h : ∀ i, t.kernelAt i = none ∨ t.kernelAt i = s.kernelAt i) : t.weight f ≤ s.weight f := by
  refine Finset.sum_le_sum fun i _ => ?_
  cases ht : t.entryAt i with
  | none => simp
  | some b =>
    rcases h i with h | h
    · simp [State.kernelAt, ht] at h
    · cases hs : s.entryAt i with
      | none => simp [State.kernelAt, ht, hs] at h
      | some a =>
        have hk : b.kernel = a.kernel := by simpa [State.kernelAt, ht, hs] using h
        simp [hf b a hk]

theorem kernel_reservation {a b : EditEntry} (h : a.kernel = b.kernel) :
    a.target.reservation = b.target.reservation := by
  simp only [EditEntry.kernel, Prod.mk.injEq] at h
  rw [h.2.1]

theorem kernel_own {a b : EditEntry} (h : a.kernel = b.kernel) :
    (if a.holding = .own then 1 else 0) = if b.holding = .own then 1 else 0 := by
  simp only [EditEntry.kernel, Prod.mk.injEq, decide_eq_decide] at h
  simp only [h.2.2]

/-- Entries that keep their kernel, and entries that leave, keep the laws of the table. -/
theorem State.tableLawful_of_kernels {s t : State} (h : ∀ i, t.kernelAt i = none ∨ t.kernelAt i = s.kernelAt i)
    (hs : s.tableLawful) : t.tableLawful := by
  obtain ⟨hdistinct, hown, hreserved⟩ := hs
  refine ⟨fun i j a b ha hb hij => ?_, ?_, ?_⟩
  · have source : ∀ {i : Nat} {a : EditEntry}, t.entryAt i = some a → ∃ a', s.entryAt i = some a' ∧ a.kernel = a'.kernel := by
      intro i a ha
      rcases h i with h | h
      · simp [State.kernelAt, ha] at h
      · simp only [State.kernelAt, ha, Option.map_some] at h
        obtain ⟨a', ha', hk⟩ := Option.map_eq_some_iff.1 h.symm
        exact ⟨a', ha', hk.symm⟩
    obtain ⟨a', ha', hka⟩ := source ha
    obtain ⟨b', hb', hkb⟩ := source hb
    simp only [EditEntry.kernel, Prod.mk.injEq] at hka hkb
    rw [hka.1, hka.2.1, hkb.1, hkb.2.1]
    exact hdistinct i j a' b' ha' hb' hij
  · rw [State.ownCount_eq] at hown ⊢
    exact (State.weight_mono (fun _ _ => kernel_own) h).trans hown
  · rw [State.reserved_eq] at hreserved ⊢
    exact (State.weight_mono (fun _ _ => kernel_reservation) h).trans hreserved

theorem Target.conflicts_comm (a b : Target) : a.conflicts b = b.conflicts a := by
  cases a <;> cases b <;> simp [Target.conflicts, Bool.and_comm]

/-- A new entry's weight is added to that of the table. -/
theorem State.weight_putEntry {s : State} {i : Nat} (hi : i < 16) (h : s.entryAt i = none) (e : EditEntry)
    (f : EditEntry → Nat) : (s.putEntry i (some e)).weight f = s.weight f + f e := by
  unfold State.weight
  have hmem : i ∈ Finset.range 16 := Finset.mem_range.2 hi
  rw [← Finset.add_sum_erase _ _ hmem, ← Finset.add_sum_erase (a := i) _ _ hmem]
  have hrest : ∀ j ∈ (Finset.range 16).erase i,
      (((s.putEntry i (some e)).entryAt j).map f).getD 0 = ((s.entryAt j).map f).getD 0 := by
    intro j hj
    rw [State.entryAt_putEntry, if_neg fun hc => (Finset.ne_of_mem_erase hj) hc.1.symm]
  rw [Finset.sum_congr rfl hrest, State.entryAt_putEntry, if_pos ⟨rfl, hi⟩, h]
  simp only [Option.map_some, Option.getD_some, Option.map_none, Option.getD_none]
  omega

/-- A new entry keeps the laws when its id is new, it conflicts with no entry, and there is room for it (R18, R21, R23). -/
theorem State.tableLawful_putEntry {s : State} {i : Nat} {e : EditEntry} (hs : s.tableLawful) (hi : i < 16)
    (hfree : s.entryAt i = none) (hid : ∀ j a, s.entryAt j = some a → a.id ≠ e.id)
    (hconflict : ∀ j a, s.entryAt j = some a → a.target.conflicts e.target = false)
    (hown : e.holding = .own → s.ownCount < 4) (hroom : s.reserved + e.target.reservation ≤ 1024) :
    (s.putEntry i (some e)).tableLawful := by
  obtain ⟨hdistinct, hcount, -⟩ := hs
  refine ⟨fun j k a b ha hb hjk => ?_, ?_, ?_⟩
  · rw [State.entryAt_putEntry] at ha hb
    by_cases hj : i = j
    · subst hj
      rw [if_pos ⟨rfl, hi⟩] at ha
      rw [if_neg fun hc => hjk hc.1] at hb
      cases ha
      exact ⟨(hid k b hb).symm, (Target.conflicts_comm _ _).trans (hconflict k b hb)⟩
    · rw [if_neg fun hc => hj hc.1] at ha
      by_cases hk : i = k
      · rw [if_pos ⟨hk, hi⟩] at hb
        cases hb
        exact ⟨hid j a ha, hconflict j a ha⟩
      · rw [if_neg fun hc => hk hc.1] at hb
        exact hdistinct j k a b ha hb hjk
  · rw [State.ownCount_eq] at hcount hown ⊢
    rw [State.weight_putEntry hi hfree]
    split
    · next h => have := hown h; omega
    · omega
  · rw [State.reserved_eq] at hroom ⊢
    rwa [State.weight_putEntry hi hfree]

/-! ### Work that keeps the laws -/

/-- The state t is what some work of the blocks leaves of s: the record, the control port, the clock of the Frame Timer, the
sequence counter and the model's own items stay, a correction it sets lies within the limits of R92, and the laws of the lists,
the edit table, the peer entries and the lock are kept. -/
structure Keeps (s t : State) : Prop where
  cfg : t.cfg = s.cfg
  port : t.port = s.port
  pending : t.pending = s.pending
  freeCount : t.freeCount = s.freeCount
  sequence : t.edit.sequence = s.edit.sequence
  clock : t.timer.running = s.timer.running ∧ t.timer.frame = s.timer.frame ∧ t.timer.line = s.timer.line
    ∧ t.timer.pixel = s.timer.pixel
  correction : t.timer.correction = s.timer.correction ∨ (s.cfg.values.inRange = true →
    -s.cfg.shorteningLimit ≤ t.timer.correction ∧ t.timer.correction ≤ s.cfg.p)
  lists : s.withinCapacity → t.withinCapacity
  table : s.tableLawful → t.tableLawful
  peers : s.peersLawful → t.peersLawful
  lock : s.lockLawful → t.lockLawful

theorem Keeps.refl (s : State) : Keeps s s :=
  ⟨rfl, rfl, rfl, rfl, rfl, ⟨rfl, rfl, rfl, rfl⟩, Or.inl rfl, id, id, id, id⟩

theorem Keeps.trans {s t u : State} (h : Keeps s t) (g : Keeps t u) : Keeps s u where
  cfg := g.cfg.trans h.cfg
  port := g.port.trans h.port
  pending := g.pending.trans h.pending
  freeCount := g.freeCount.trans h.freeCount
  sequence := g.sequence.trans h.sequence
  clock := ⟨g.clock.1.trans h.clock.1, g.clock.2.1.trans h.clock.2.1, g.clock.2.2.1.trans h.clock.2.2.1,
    g.clock.2.2.2.trans h.clock.2.2.2⟩
  correction := by
    rcases g.correction with hg | hg
    · rw [hg]
      exact h.correction
    · rw [h.cfg] at hg
      exact Or.inr hg
  lists := g.lists ∘ h.lists
  table := g.table ∘ h.table
  peers := g.peers ∘ h.peers
  lock := g.lock ∘ h.lock

/-- The wall state, the Role Controller, the Catch-Up Unit, the Bus Interface and the Pixel Path are in none of these laws. -/
theorem Keeps.blocks (s : State) (wall : WallState) (ctl : RoleControl) (catchUp : CatchUp) (bus : Bus) (pixel : PixelPath) :
    Keeps s { s with wall := wall, ctl := ctl, catchUp := catchUp, bus := bus, pixel := pixel } :=
  ⟨rfl, rfl, rfl, rfl, rfl, ⟨rfl, rfl, rfl, rfl⟩, Or.inl rfl, id, id, id, id⟩

theorem Keeps.post {s : State} {k : EventKind} {st : Option Station} {eid : Option EditId} {r : Option Reason}
    {ro : Option Role} : Keeps s (s.post k st eid r ro) :=
  ⟨rfl, rfl, rfl, rfl, rfl, ⟨rfl, rfl, rfl, rfl⟩, Or.inl rfl,
    fun ⟨hev, hrest⟩ => ⟨post_events_length_le hev .., hrest⟩, id, id, id⟩

theorem Keeps.mapPeers (s : State) {f : Peer → Peer} (hf : ∀ p : Peer, p.lawful → (f p).lawful) : Keeps s (s.mapPeers f) where
  __ := Keeps.blocks s s.wall s.ctl s.catchUp s.bus s.pixel
  peers := fun h n p hp => by
    rw [State.mapPeers_peers, mapTable_getElem?] at hp
    obtain ⟨q, hq, rfl⟩ := Option.map_eq_some_iff.1 hp
    exact hf q (h n q hq)

theorem Keeps.putPeer (s : State) {n : Nat} {p q : Peer} (hp : s.peerAt n = some p) (hq : p.lawful → q.lawful) :
    Keeps s (s.putPeer n q) := by
  obtain ⟨hlt, hne, hat⟩ := State.peerAt_lt hp
  rw [State.putPeer_of_ne q hne]
  refine { Keeps.blocks s s.wall s.ctl s.catchUp s.bus s.pixel with peers := fun h m r hr => ?_ }
  simp only [Vector.getElem?_setIfInBounds] at hr
  split at hr
  · cases hr
    exact hq (h n p hat)
  · exact h m r hr

/-- A change of the lock status that the law of the lock allows. -/
theorem Keeps.setLock (s : State) (lock : Lock) (count : Nat) (trim : BitVec 10) (advance : Option FrameNo)
    (h : s.lockLawful → count ≤ 8 ∧ (lock = .locked ↔ count = 8) ∧ (lock = .free → count = 0)) :
    Keeps s { s with timer := { s.timer with lock := lock, lockCount := count, trim := trim, advance := advance } } :=
  { Keeps.blocks s s.wall s.ctl s.catchUp s.bus s.pixel with lock := h }

theorem Keeps.loseLock (s : State) {lock : Lock} (h : lock ≠ .locked) : Keeps s (s.loseLock lock) := by
  have hset : Keeps s { s with timer := { s.timer with lock := lock, lockCount := 0 } } :=
    Keeps.setLock s lock 0 s.timer.trim s.timer.advance fun _ => ⟨by omega, by simp [h], fun _ => rfl⟩
  unfold State.loseLock
  dsimp only
  split
  · exact hset.trans Keeps.post
  · exact hset

end Sys2Proof.Machine


/-! # The work of the Edit Unit keeps to the Edit Unit (chapters 2 and 3) -/

namespace Sys2Proof.Machine

open Sys2Proof

/-- The state t is what work of the Edit Unit leaves of s: it touches the Edit Unit, the event queue, the requester's missed flag
and the mark of the attempt in flight alone, never the sequence counter, and keeps the laws. -/
structure EditWork (s t : State) : Prop where
  frame : ∃ ed a ev m, t = { s with
    edit := ed
    bus := { s.bus with attempt := a }
    events := ev
    catchUp := { s.catchUp with req := { s.catchUp.req with missed := m } } }
  idle : s.bus.attempt = none → t.bus.attempt = none
  sequence : t.edit.sequence = s.edit.sequence
  lists : s.withinCapacity → t.withinCapacity
  table : s.tableLawful → t.tableLawful

theorem EditWork.refl (s : State) : EditWork s s := ⟨⟨_, _, _, _, rfl⟩, id, rfl, id, id⟩

theorem EditWork.trans {s t u : State} (h : EditWork s t) (g : EditWork t u) : EditWork s u where
  frame := by
    obtain ⟨_, _, _, _, rfl⟩ := h.frame
    obtain ⟨_, _, _, _, rfl⟩ := g.frame
    exact ⟨_, _, _, _, rfl⟩
  idle := g.idle ∘ h.idle
  sequence := g.sequence.trans h.sequence
  lists := g.lists ∘ h.lists
  table := g.table ∘ h.table

theorem EditWork.keeps {s t : State} (h : EditWork s t) : Keeps s t := by
  obtain ⟨_, _, _, _, ht⟩ := h.frame
  exact
    { cfg := by rw [ht], port := by rw [ht], pending := by rw [ht], freeCount := by rw [ht], sequence := h.sequence
      clock := by rw [ht]; exact ⟨rfl, rfl, rfl, rfl⟩
      correction := by rw [ht]; exact Or.inl rfl
      lists := h.lists, table := h.table
      peers := by rw [ht]; exact id
      lock := by rw [ht]; exact id }

section Frame
variable {s t : State} (h : EditWork s t)
include h

theorem EditWork.wall : t.wall = s.wall := by obtain ⟨_, _, _, _, rfl⟩ := h.frame; rfl
theorem EditWork.peers : t.peers = s.peers := by obtain ⟨_, _, _, _, rfl⟩ := h.frame; rfl
theorem EditWork.timer : t.timer = s.timer := by obtain ⟨_, _, _, _, rfl⟩ := h.frame; rfl
theorem EditWork.ctl : t.ctl = s.ctl := by obtain ⟨_, _, _, _, rfl⟩ := h.frame; rfl
theorem EditWork.pixel : t.pixel = s.pixel := by obtain ⟨_, _, _, _, rfl⟩ := h.frame; rfl
theorem EditWork.cfg : t.cfg = s.cfg := by obtain ⟨_, _, _, _, rfl⟩ := h.frame; rfl
theorem EditWork.reqState : t.catchUp.req.state = s.catchUp.req.state := by obtain ⟨_, _, _, _, rfl⟩ := h.frame; rfl

theorem EditWork.bus : t.bus = { s.bus with attempt := t.bus.attempt } := by obtain ⟨_, _, _, _, rfl⟩ := h.frame; rfl

theorem EditWork.same : s.sameButEdits t := by
  obtain ⟨_, _, _, _, rfl⟩ := h.frame
  exact ⟨rfl, rfl, rfl, rfl, rfl, rfl, rfl, rfl, rfl, rfl, rfl, rfl⟩

end Frame

/-! ### The operations that the Edit Unit's work is made of -/

theorem Bus.withdraw_idle {b : Bus} {src : Source} (h : b.attempt = none) : (b.withdraw src).attempt = none := by
  rw [Bus.withdraw_of_attempt_none src h, h]

/-- A withdrawal marks the attempt in flight alone. -/
theorem EditWork.withdraw {s : State} {src : Source} : EditWork s (s.withdraw src) where
  frame := ⟨s.edit, (s.bus.withdraw src).attempt, s.events, s.catchUp.req.missed, by
    rw [State.withdraw, Bus.withdraw_eq]⟩
  idle := Bus.withdraw_idle
  sequence := rfl
  lists := id
  table := id

theorem EditWork.post {s : State} {k : EventKind} {st : Option Station} {eid : Option EditId} {r : Option Reason}
    {ro : Option Role} : EditWork s (s.post k st eid r ro) :=
  ⟨⟨_, _, _, _, rfl⟩, id, rfl, Keeps.post.lists, id⟩

theorem EditWork.noteMissed {s : State} : EditWork s s.noteMissed := by
  rw [State.noteMissed_eq]
  exact ⟨⟨_, _, _, _, rfl⟩, id, rfl, id, id⟩

/-- A change of the refusal list within its capacity. -/
theorem EditWork.refusals (s : State) (q : List RefusalEntry) (h : s.edit.refusals.length ≤ 4 → q.length ≤ 4) :
    EditWork s { s with edit := { s.edit with refusals := q } } :=
  ⟨⟨_, _, _, _, rfl⟩, id, rfl, fun ⟨hev, hrf, hout⟩ => ⟨hev, h hrf, hout⟩, id⟩

/-- A change of the outcome list within its capacity. -/
theorem EditWork.outcomes (s : State) (q : List OutcomeEntry) (h : s.edit.outcomes.length ≤ 8 → q.length ≤ 8) :
    EditWork s { s with edit := { s.edit with outcomes := q } } :=
  ⟨⟨_, _, _, _, rfl⟩, id, rfl, fun ⟨hev, hrf, hout⟩ => ⟨hev, hrf, h hout⟩, id⟩

theorem EditWork.refuse {s : State} {eid : EditId} {r : Reason} : EditWork s (s.refuse eid r) := by
  rcases s.refuse_eq eid r with h | ⟨hlt, h⟩
  · rw [h]
    exact EditWork.refl s
  · rw [h]
    exact EditWork.refusals s _ fun _ => by simpa using hlt

theorem EditWork.emptyRefusals {s : State} : EditWork s s.emptyRefusals :=
  EditWork.withdraw.trans (EditWork.refusals _ [] fun _ => Nat.zero_le _)

theorem EditWork.setOutcome {s : State} {eid : EditId} {f : OutcomeEntry → OutcomeEntry} :
    EditWork s (s.setOutcome eid f) :=
  EditWork.outcomes s _ fun h => by simpa using h

theorem EditWork.recordOutcome {s : State} {o : OutcomeEntry} : EditWork s (s.recordOutcome o) := by
  have hidle : s.bus.attempt = none → (s.recordOutcome o).bus.attempt = none := fun h => by
    rw [State.recordOutcome_of_none s o h]
    exact h
  obtain ⟨b, h⟩ := s.recordOutcome_eq o
  rw [h] at hidle ⊢
  exact { EditWork.outcomes s (joinOutcomes s.edit.outcomes o) fun _ => joinOutcomes_length_le _ _ with
    frame := ⟨_, _, _, _, rfl⟩, idle := hidle }

theorem State.kernelAt_putEntry_of {s : State} {i : Nat} {e : Option EditEntry}
    (h : e = none ∨ e.map EditEntry.kernel = s.kernelAt i) (j : Nat) :
    (s.putEntry i e).kernelAt j = none ∨ (s.putEntry i e).kernelAt j = s.kernelAt j := by
  unfold State.kernelAt at h ⊢
  rw [State.entryAt_putEntry]
  split
  · next hij =>
    rw [← hij.1]
    rcases h with rfl | h
    · exact Or.inl rfl
    · exact Or.inr h
  · exact Or.inr rfl

/-- An index that keeps the kernel of its entry, or is left empty. -/
theorem EditWork.putEntry_of {s : State} {i : Nat} {e : Option EditEntry}
    (h : e = none ∨ e.map EditEntry.kernel = s.kernelAt i) : EditWork s (s.putEntry i e) :=
  ⟨⟨_, _, _, _, rfl⟩, id, rfl, id, State.tableLawful_of_kernels (State.kernelAt_putEntry_of h)⟩

/-- An entry changes, its id, its target and OWN apart. -/
theorem EditWork.putEntry {s : State} {i : Nat} {e e' : EditEntry} (he : s.entryAt i = some e)
    (hk : e'.kernel = e.kernel) : EditWork s (s.putEntry i (some e')) :=
  EditWork.putEntry_of (Or.inr (by simp [State.kernelAt, he, hk]))

theorem EditWork.enter {s : State} {i : Nat} {e e' : EditEntry} (k : Option MsgKind) (he : s.entryAt i = some e)
    (hk : e'.kernel = e.kernel) : EditWork s (s.enter i e' k) :=
  EditWork.withdraw.trans (EditWork.putEntry (e := e) he hk)

theorem EditWork.removeEntry {s : State} {i : Nat} : EditWork s (s.removeEntry i) :=
  EditWork.withdraw.trans (EditWork.putEntry_of (Or.inl rfl))

theorem EditWork.dropEntry {s : State} {i : Nat} {e : EditEntry} {r : Reason} {st : Option Station} :
    EditWork s (s.dropEntry i e r st) :=
  EditWork.removeEntry.trans EditWork.post

theorem EditWork.decideDrop {s : State} {i : Nat} {e : EditEntry} {r : Reason} {st : Option Station} :
    EditWork s (s.decideDrop i e r st) :=
  EditWork.recordOutcome.trans EditWork.dropEntry

theorem EditWork.tryTake {s : State} {i : Nat} : EditWork s (s.tryTake i) := by
  rcases s.tryTake_cases i with h | ⟨e, he, -, -, -, -, h⟩
  · rw [h]
    exact EditWork.refl s
  · rw [h]
    exact (EditWork.enter (e := e) (some .take) he (by rfl)).trans EditWork.recordOutcome

/-- Work on each entry in turn is work of the Edit Unit when it is so at every entry. -/
theorem EditWork.forEntries {s : State} {f : Nat → EditEntry → State → State}
    (hf : ∀ i e t, t.entryAt i = some e → EditWork t (f i e t)) : EditWork s (s.forEntries f) :=
  State.forEntries_induction (P := EditWork s) (EditWork.refl s) fun i e t h he => h.trans (hf i e t he)

theorem EditWork.withdrawOutcomes (s : State) (xs : List OutcomeEntry) :
    EditWork s (xs.foldl (fun s o => s.withdraw (.outcome o.id)) s) := by
  induction xs generalizing s with
  | nil => exact EditWork.refl s
  | cons x xs ih => exact EditWork.withdraw.trans (ih _)

/-! ### Losses, completions and abandonments -/

theorem EditWork.loseVoter {s : State} {st : Station} : EditWork s (s.loseVoter st) := by
  refine EditWork.forEntries fun i e t he => ?_
  have hput : EditWork t (t.putEntry i (some (e.withoutVoter st))) := EditWork.putEntry he (by rfl)
  rcases loseVoterAt_cases st i e t with ⟨h, -⟩ | h | h
  · rw [h]
    exact EditWork.refl t
  · rw [h]
    exact hput
  · rw [h]
    exact hput.trans EditWork.tryTake

theorem EditWork.entryDelivered {s : State} {i : Nat} {e : EditEntry} (he : s.entryAt i = some e) (kind : MsgKind) :
    EditWork s (s.entryDelivered i e kind) := by
  unfold State.entryDelivered
  split
  · dsimp only
    split
    · exact EditWork.putEntry he (by rfl)
    · exact (EditWork.putEntry he (by rfl)).trans EditWork.tryTake
  · dsimp only
    split
    · exact EditWork.putEntry he (by rfl)
    · exact (EditWork.putEntry he (by rfl)).trans EditWork.tryTake
  · exact EditWork.putEntry he (by rfl)

theorem EditWork.entryAbandoned {s : State} {i : Nat} {e : EditEntry} (he : s.entryAt i = some e) (kind : MsgKind) :
    EditWork s (s.entryAbandoned i e kind) := EditWork.putEntry he (by rfl)

/-! ### Proposals -/

theorem EditWork.rejectProposal {s : State} {eid : EditId} {r : Reason} : EditWork s (s.rejectProposal eid r) := by
  unfold State.rejectProposal
  split
  · exact EditWork.refuse
  · exact EditWork.noteMissed

theorem EditWork.supersede (s : State) (eid : EditId) : EditWork s (s.supersede eid) := by
  unfold State.supersede
  split
  · exact EditWork.dropEntry
  · exact EditWork.refl s

theorem EditWork.withdrawUnsent (s : State) (t : Target) : EditWork s (s.withdrawUnsent t) := by
  refine EditWork.forEntries fun i e u _ => ?_
  split
  · exact EditWork.dropEntry
  · exact EditWork.refl u

theorem State.conflictHeld_eq_false {s : State} {t : Target} :
    s.conflictHeld t = false ↔ ∀ i e, s.entryAt i = some e → e.target.conflicts t = false := by
  rw [← Bool.not_eq_true, State.conflictHeld_eq_true]
  simp

/-- The reservations of a lawful table and one that fits the free pool fit the pool together. -/
theorem State.reserved_add_le {s : State} (h : s.reserved ≤ 1024) {n : Nat} (hn : n ≤ s.poolFree) : s.reserved + n ≤ 1024 := by
  unfold State.poolFree at hn
  unfold State.reserved at h ⊢
  omega

/-- R32 to R35: a proposal is rejected, or takes the lowest empty index when it conflicts with no entry, its take frame lies in
the lead window and it fits the pool. -/
theorem State.admitProposal_cases (s : State) (eid : EditId) (takeFrame : FrameNo) (t : Target) :
    (∃ r, s.admitProposal eid takeFrame t = s.rejectProposal eid r)
    ∨ ∃ i, s.freeIndex = some i ∧ s.conflictHeld t = false ∧ t.reservation ≤ s.poolFree
      ∧ s.admitProposal eid takeFrame t = s.putEntry i (some (admittedEntry s.ctl.role eid takeFrame t)) := by
  unfold State.admitProposal
  dsimp only
  split
  · exact Or.inl ⟨_, rfl⟩
  · next hconflict =>
    split
    · exact Or.inl ⟨_, rfl⟩
    · split
      · exact Or.inl ⟨_, rfl⟩
      · next hroom =>
        split
        · next i hi => exact Or.inr ⟨i, hi, Bool.eq_false_iff.2 hconflict, Nat.le_of_not_lt hroom, rfl⟩
        · exact Or.inl ⟨_, rfl⟩

theorem admittedEntry_holding (role : Role) (eid : EditId) (takeFrame : FrameNo) (t : Target) :
    (admittedEntry role eid takeFrame t).holding ≠ .own := by
  unfold admittedEntry
  by_cases h : role = .member <;> simp [h]

/-- After the supersede no entry of a lawful table holds the id. -/
theorem State.supersede_id_free {s : State} (h : s.tableLawful) (eid : EditId) {j : Nat} {a : EditEntry}
    (ha : (s.supersede eid).entryAt j = some a) : a.id ≠ eid := by
  unfold State.supersede at ha
  split at ha
  · next i e hfind =>
    obtain ⟨he, hid⟩ := State.findEntry_some hfind
    rw [State.entryAt_dropEntry] at ha
    split at ha
    · cases ha
    · next hij =>
      have hne : i ≠ j := fun hc => hij ⟨hc, State.entryAt_lt he⟩
      rw [← hid]
      exact ((h.1 i j e a he ha hne).1).symm
  · next hfind => exact State.findEntry_none.1 hfind j a ha

/-- The withdrawals remove entries and change none. -/
theorem State.withdrawUnsent_entryAt {s : State} {t : Target} {j : Nat} {a : EditEntry}
    (ha : (s.withdrawUnsent t).entryAt j = some a) : s.entryAt j = some a := by
  have hkept : ∀ j a, (s.withdrawUnsent t).entryAt j = some a → s.entryAt j = some a := by
    refine State.forEntries_induction (P := fun u => ∀ j a, u.entryAt j = some a → s.entryAt j = some a)
      (fun _ _ h => h) fun i e u hu _ j a ha => ?_
    split at ha
    · rw [State.entryAt_dropEntry] at ha
      split at ha
      · cases ha
      · exact hu j a ha
    · exact hu j a ha
  exact hkept j a ha

theorem EditWork.proposeArrives (s : State) (sender : Station) (eid : EditId) (takeFrame : FrameNo) (t : Target) :
    EditWork s (s.proposeArrives sender eid takeFrame t) := by
  unfold State.proposeArrives
  split
  · exact EditWork.refl s
  · split
    · exact EditWork.refl s
    · have hbefore : EditWork s ((s.supersede eid).withdrawUnsent t) :=
        (EditWork.supersede s eid).trans (EditWork.withdrawUnsent _ t)
      have hid : s.tableLawful → ∀ j a, ((s.supersede eid).withdrawUnsent t).entryAt j = some a → a.id ≠ eid :=
        fun hlaw j a ha => State.supersede_id_free hlaw eid (State.withdrawUnsent_entryAt ha)
      generalize (s.supersede eid).withdrawUnsent t = u at hbefore hid ⊢
      rcases u.admitProposal_cases eid takeFrame t with ⟨r, h⟩ | ⟨i, hi, hconflict, hroom, h⟩
      · rw [h]
        exact hbefore.trans EditWork.rejectProposal
      · obtain ⟨hlt, hfree, -⟩ := State.freeIndex_some hi
        rw [h]
        refine { frame := ?_, idle := hbefore.idle, sequence := hbefore.sequence, lists := hbefore.lists, table := fun hlaw => ?_ }
        · obtain ⟨_, _, _, _, rfl⟩ := hbefore.frame
          exact ⟨_, _, _, _, rfl⟩
        · exact State.tableLawful_putEntry (hbefore.table hlaw) hlt hfree (hid hlaw)
            (State.conflictHeld_eq_false.1 hconflict) (fun hown => absurd hown (admittedEntry_holding _ _ _ _))
            (State.reserved_add_le (hbefore.table hlaw).2.2 hroom)

/-! ### Contents, votes and reports -/

theorem EditWork.checkFragments {s : State} {i : Nat} {e : EditEntry} (he : s.entryAt i = some e) :
    EditWork s (s.checkFragments i e) := by
  unfold State.checkFragments
  split
  · split
    · split
      · exact EditWork.enter _ he (by rfl)
      · exact EditWork.enter _ he (by rfl)
    · split
      · exact EditWork.refuse.trans EditWork.dropEntry
      · exact EditWork.removeEntry
  · exact EditWork.refl s

theorem EditWork.storeFragment {s : State} {i : Nat} {e : EditEntry} (he : s.entryAt i = some e) (j : Nat)
    (records : List Colour) : EditWork s (s.storeFragment i e j records) := by
  have hput : EditWork s (s.putEntry i (some (e.withFragment j records))) := EditWork.putEntry he (by rfl)
  by_cases h : e.awaitsFragment j records
  · cases hset : holdsAll (fragmentCount e.target.reservation) (insertNat j (e.received.getD [])) with
    | false =>
      rw [State.storeFragment_of_incomplete i h hset]
      exact hput
    | true =>
      rw [State.storeFragment_of_complete i h hset]
      exact hput.trans (EditWork.checkFragments (State.entryAt_putEntry_self (State.entryAt_lt he) _))
  · rw [State.storeFragment_of_not_awaited i h]
    exact EditWork.refl s

theorem EditWork.dataArrives (s : State) (sender : Station) (eid : EditId) (j : Nat) (records : List Colour) :
    EditWork s (s.dataArrives sender eid j records) := by
  unfold State.dataArrives
  split
  · split
    · next i e h => exact EditWork.storeFragment (State.findEntry_some h).1 ..
    · exact EditWork.refl s
  · exact EditWork.refl s

theorem EditWork.acceptArrives (s : State) (sender : Station) (eid : EditId) : EditWork s (s.acceptArrives sender eid) := by
  unfold State.acceptArrives
  split
  · next i e h =>
    split
    · exact (EditWork.putEntry (State.findEntry_some h).1 (by rfl)).trans EditWork.tryTake
    · exact EditWork.refl s
  · exact EditWork.refl s

theorem EditWork.refuseArrives (s : State) (sender : Station) (eid : EditId) : EditWork s (s.refuseArrives sender eid) := by
  unfold State.refuseArrives
  split
  · split
    · exact EditWork.decideDrop
    · exact EditWork.refl s
  · exact EditWork.refl s

theorem EditWork.becomeTaken {s : State} {i : Nat} {e : EditEntry} (he : s.entryAt i = some e) :
    EditWork s (s.becomeTaken i e) := by
  unfold State.becomeTaken
  dsimp only
  split
  · exact (EditWork.enter none he (by rfl)).trans EditWork.post
  · exact EditWork.enter none he (by rfl)

theorem EditWork.takeArrives (s : State) (sender : Station) (eid : EditId) : EditWork s (s.takeArrives sender eid) := by
  unfold State.takeArrives
  split
  · split
    · next i e h =>
      split
      case h_4 =>
        split
        · exact EditWork.removeEntry.trans EditWork.noteMissed
        · exact EditWork.refl s
      case h_1 | h_2 | h_3 => exact (EditWork.becomeTaken (State.findEntry_some h).1).trans EditWork.recordOutcome
      all_goals exact EditWork.refl s
    · exact EditWork.refl s
  · exact EditWork.refl s

theorem EditWork.dropArrives (s : State) (sender : Station) (eid : EditId) : EditWork s (s.dropArrives sender eid) := by
  unfold State.dropArrives
  split
  · split
    · split
      case h_1 | h_2 | h_3 | h_4 => exact EditWork.dropEntry.trans EditWork.recordOutcome
      all_goals exact EditWork.refl s
    · exact EditWork.refl s
  · exact EditWork.refl s

theorem EditWork.answerQuery (s : State) (eid : EditId) : EditWork s (s.answerQuery eid) := by
  unfold State.answerQuery
  split
  · exact EditWork.setOutcome
  · exact EditWork.refl s

theorem EditWork.yieldQuery (s : State) (eid : EditId) : EditWork s (s.yieldQuery eid) := by
  unfold State.yieldQuery
  split
  · next i e h =>
    split
    · exact EditWork.putEntry (State.findEntry_some h).1 (by rfl)
    · exact EditWork.refl s
  · exact EditWork.refl s

theorem EditWork.queryArrives (s : State) (sender : Station) (eid : EditId) : EditWork s (s.queryArrives sender eid) := by
  unfold State.queryArrives
  split
  · exact EditWork.refl s
  · exact (EditWork.answerQuery s eid).trans (EditWork.yieldQuery _ eid)

theorem EditWork.learnOutcome (s : State) (eid : EditId) (taken : Bool) : EditWork s (s.learnOutcome eid taken) := by
  unfold State.learnOutcome
  split
  · next i e h =>
    split
    case h_1 | h_2 | h_3 =>
      split
      · exact EditWork.becomeTaken (State.findEntry_some h).1
      · exact EditWork.dropEntry
    all_goals exact EditWork.refl s
  · exact EditWork.refl s

theorem EditWork.yieldOutcome (s : State) (eid : EditId) : EditWork s (s.yieldOutcome eid) := by
  unfold State.yieldOutcome
  split
  · exact EditWork.refl s
  · exact EditWork.setOutcome

theorem EditWork.outcomeArrives (s : State) (sender : Station) (eid : EditId) (taken : Bool) :
    EditWork s (s.outcomeArrives sender eid taken) := by
  unfold State.outcomeArrives
  split
  · exact EditWork.refl s
  · exact (EditWork.learnOutcome s eid taken).trans (EditWork.yieldOutcome _ eid)

/-! ### The frame starts and the changes of role -/

theorem EditWork.ownDeadlines (s : State) : EditWork s s.ownDeadlines := by
  refine EditWork.forEntries fun i e t _ => ?_
  split
  · exact EditWork.decideDrop
  · exact EditWork.refl t

theorem EditWork.collectionDeadlines (s : State) : EditWork s s.collectionDeadlines := by
  refine EditWork.forEntries fun i e t _ => ?_
  split
  · split
    · exact EditWork.refuse.trans EditWork.dropEntry
    · exact EditWork.removeEntry.trans EditWork.noteMissed
  · exact EditWork.refl t

theorem EditWork.goInDoubt (s : State) : EditWork s s.goInDoubt := by
  refine EditWork.forEntries fun i e t he => ?_
  split
  · exact EditWork.enter _ he (by rfl)
  · exact EditWork.refl t

theorem EditWork.queryAgain {s : State} {i : Nat} {e : EditEntry} (he : s.entryAt i = some e) :
    EditWork s (s.queryAgain i e) := by
  unfold State.queryAgain
  dsimp only
  split
  · exact EditWork.putEntry he (by rfl)
  · exact EditWork.enter _ he (by rfl)

theorem EditWork.queryWaits (s : State) : EditWork s s.queryWaits := by
  refine EditWork.forEntries fun i e t he => ?_
  split
  · split
    · exact EditWork.queryAgain he
    · exact EditWork.dropEntry
  · split
    · exact EditWork.putEntry he (by rfl)
    · exact EditWork.refl t

theorem EditWork.observerExpiry (s : State) : EditWork s s.observerExpiry := by
  refine EditWork.forEntries fun i e t _ => ?_
  split
  · exact EditWork.removeEntry.trans EditWork.noteMissed
  · exact EditWork.refl t

theorem EditWork.ceaseVotingEntry {s : State} {i : Nat} {e : EditEntry} (he : s.entryAt i = some e) :
    EditWork s (ceaseVotingAt i e s) := by
  unfold ceaseVotingAt
  split
  · next hv =>
    split
    · exact EditWork.putEntry he (by simp [EditEntry.kernel, hv])
    · exact EditWork.enter _ he (by simp [EditEntry.kernel, hv])
    · exact EditWork.refl s
  · exact EditWork.refl s

theorem EditWork.ceaseVoting (s : State) : EditWork s s.ceaseVoting := by
  have hcease : EditWork s (s.emptyRefusals.forEntries ceaseVotingAt) :=
    EditWork.emptyRefusals.trans (EditWork.forEntries fun _ _ _ he => EditWork.ceaseVotingEntry he)
  unfold State.ceaseVoting
  dsimp only
  generalize s.emptyRefusals.forEntries ceaseVotingAt = u at hcease ⊢
  exact hcease.trans (EditWork.outcomes u _ fun h => by simpa using h)

theorem EditWork.dropAll (s : State) (r : Reason) : EditWork s (s.dropAll r) :=
  EditWork.forEntries fun _ _ _ _ => EditWork.dropEntry

theorem EditWork.emptyEdits (s : State) (r : Reason) : EditWork s (s.emptyEdits r) := by
  have hdrop : EditWork s (s.dropAll r).emptyRefusals := (EditWork.dropAll s r).trans EditWork.emptyRefusals
  unfold State.emptyEdits
  dsimp only
  generalize (s.dropAll r).emptyRefusals = u at hdrop ⊢
  exact (hdrop.trans (EditWork.withdrawOutcomes u _)).trans (EditWork.outcomes _ [] fun _ => Nat.zero_le _)

theorem EditWork.leaveOwnEdits (s : State) : EditWork s s.leaveOwnEdits := by
  refine EditWork.forEntries fun i e t _ => ?_
  split
  · split
    · exact EditWork.decideDrop
    · exact EditWork.dropEntry
  · exact EditWork.refl t

theorem EditWork.clearDeferred (s : State) : EditWork s s.clearDeferred := by
  refine EditWork.forEntries fun i e t he => ?_
  split
  · exact EditWork.putEntry he (by rfl)
  · exact EditWork.refl t

end Sys2Proof.Machine


/-! # What the work of the other blocks keeps (chapters 4 to 8) -/

namespace Sys2Proof.Machine

open Sys2Proof

/-! ### The Catch-Up Unit -/

theorem Keeps.beginCycle (s : State) : Keeps s s.beginCycle := Keeps.blocks s _ _ _ _ _

theorem Keeps.catchUpStart (s : State) : Keeps s s.catchUpStart := by
  unfold State.catchUpStart
  split
  · exact Keeps.beginCycle s
  · exact Keeps.blocks s _ _ _ _ _

theorem Keeps.failedTry (s : State) : Keeps s s.failedTry := by
  unfold State.failedTry
  dsimp only
  split
  · exact Keeps.blocks s _ _ _ _ _
  · exact Keeps.trans (Keeps.blocks s _ _ _ _ _) Keeps.post

theorem Keeps.catchUpWaits (s : State) : Keeps s s.catchUpWaits := by
  unfold State.catchUpWaits
  split
  · exact Keeps.failedTry s
  · split
    · exact Keeps.beginCycle s
    · dsimp only
      split
      case h_4 | h_5 => exact Keeps.refl s
      all_goals exact Keeps.blocks s _ _ _ _ _

theorem Keeps.endResponder (s : State) : Keeps s s.endResponder := by
  unfold State.endResponder
  dsimp only
  split
  · exact Keeps.refl s
  · split
    · exact Keeps.blocks s _ _ _ _ _
    · exact Keeps.blocks s _ _ _ _ _
  · split
    · exact Keeps.blocks s _ _ _ _ _
    · exact Keeps.blocks s _ _ _ _ _

theorem Keeps.abortRequester (s : State) : Keeps s s.abortRequester :=
  Keeps.trans (Keeps.blocks s _ _ _ _ _) (EditWork.clearDeferred _).keeps

/-! ### Applications -/

theorem Keeps.applyEntry (s : State) (i : Nat) (e : EditEntry) : Keeps s (s.applyEntry i e) :=
  (Keeps.trans (Keeps.blocks s _ _ _ _ _) Keeps.post).trans EditWork.removeEntry.keeps

theorem Keeps.applyEntries (xs : List (Nat × EditEntry)) (s : State) :
    Keeps s (xs.foldl (fun s x => s.applyEntry x.1 x.2) s) := by
  induction xs generalizing s with
  | nil => exact Keeps.refl s
  | cons x xs ih => exact (Keeps.applyEntry s x.1 x.2).trans (ih _)

/-- The deferral of due entries changes their deferred fields and the missed flag alone. -/
theorem EditWork.takeDue_of_catchingUp {s : State} (due : EditEntry → Bool) (h : s.catchingUp = true) :
    EditWork s (s.takeDue due) := by
  obtain ⟨⟨table, ht⟩, hat⟩ := State.takeDue_of_catchingUp due h
  have hkernel : ∀ i, (s.takeDue due).kernelAt i = s.kernelAt i := by
    intro i
    unfold State.kernelAt
    rw [hat, Option.map_map]
    congr 1
    funext e
    simp only [Function.comp_apply]
    split <;> rfl
  have htable := State.tableLawful_of_kernels fun i => Or.inr (hkernel i)
  rw [ht] at htable ⊢
  exact ⟨⟨_, _, _, _, rfl⟩, id, rfl, id, htable⟩

theorem Keeps.takeDue (s : State) (due : EditEntry → Bool) : Keeps s (s.takeDue due) := by
  cases h : s.catchingUp with
  | true => exact (EditWork.takeDue_of_catchingUp due h).keeps
  | false =>
    rw [(State.takeDue_of_idle due h).1]
    exact Keeps.applyEntries ..

theorem Keeps.applications (s : State) : Keeps s s.applications := (Keeps.takeDue s _).trans (Keeps.takeDue _ _)

theorem Keeps.applyDeferred (s : State) (f : FrameNo) : Keeps s (s.applyDeferred f) :=
  State.applyDeferred_induction (P := Keeps s) f (Keeps.refl s) (fun _ _ h => h.trans EditWork.removeEntry.keeps)
    fun _ _ _ h => h.trans (Keeps.applyEntry ..)

theorem Keeps.applyDump (s : State) (h : Header) : Keeps s (s.applyDump h) := by
  have hload : Keeps s (s.loadDump h) := Keeps.blocks s _ _ _ _ _
  have happly : Keeps s (((s.loadDump h).applyDeferred h.frame).post .dumpDone s.catchUp.req.responder) :=
    (hload.trans (Keeps.applyDeferred _ h.frame)).trans Keeps.post
  unfold State.loadDump at happly
  unfold State.applyDump
  dsimp only
  generalize State.post _ _ _ _ _ _ = u at happly ⊢
  split
  · exact happly.trans (Keeps.blocks u _ _ _ _ _)
  · exact happly.trans (Keeps.blocks u _ _ _ _ _)

theorem Keeps.dumpApply (s : State) : Keeps s s.dumpApply := by
  unfold State.dumpApply
  split
  · exact Keeps.applyDump ..
  · exact Keeps.refl s

/-! ### The Peer Table -/

theorem Peer.cleared_lawful (c : Capture) : (Peer.cleared c).lawful := ⟨by simp [Peer.cleared], by simp [Peer.cleared], fun _ => rfl⟩

/-- The entry of a lawful table that has been heard of in the frame is not ABSENT. -/
theorem Peer.seen_eq_false {p : Peer} (h : p.lawful) (ha : p.state = .absent) : p.seen = false := by
  rw [h.2.2 ha]
  rfl

theorem Keeps.missAt (s : State) (n : Nat) : Keeps s (s.missAt n) := by
  unfold State.missAt
  split
  · next p hp =>
    split
    · next hseen =>
      refine Keeps.putPeer s hp fun h => ⟨h.1, h.2.1, fun ha => ?_⟩
      exact absurd (Peer.seen_eq_false h ha) (by simp [hseen])
    · next hseen =>
      split
      · exact (Keeps.putPeer s hp fun _ => Peer.cleared_lawful _).trans (EditWork.loseVoter).keeps
      · next hlive =>
        split
        · refine ((Keeps.putPeer s hp fun _ => ?_).trans Keeps.post).trans (EditWork.loseVoter).keeps
          exact ⟨Nat.le_refl 3, by simp, by simp⟩
        · next hfall =>
          have hlt : ¬ 3 ≤ p.misses + 1 := by simpa [Peer.fallsSilent, hlive, hseen] using hfall
          exact Keeps.putPeer s hp fun _ =>
            ⟨by dsimp only; omega, fun _ => by dsimp only; omega, fun ha => absurd ha (by simp [hlive])⟩
      all_goals exact Keeps.refl s
  · exact Keeps.refl s

theorem Keeps.missCount (s : State) : Keeps s s.missCount :=
  State.missCount_induction (P := Keeps s) (Keeps.refl s) fun n _ h => h.trans (Keeps.missAt _ n)

theorem Keeps.clearVerdicts (s : State) : Keeps s s.clearVerdicts :=
  Keeps.mapPeers s fun p h => ⟨h.1, h.2.1, fun ha => by
    have hp := h.2.2 ha
    rw [hp]
    rfl⟩

theorem Keeps.clearPeers (s : State) : Keeps s s.clearPeers := Keeps.mapPeers s fun _ _ => Peer.cleared_lawful _

theorem Peer.useOffset_lawful {p : Peer} (h : p.lawful) : p.useOffset.lawful := ⟨h.1, h.2.1, fun ha => by
  have hp : p = p.clear := h.2.2 ha
  rw [hp]
  rfl⟩

theorem Keeps.useLiveOffsets (s : State) : Keeps s s.useLiveOffsets :=
  Keeps.mapPeers s fun p h => by
    split
    · exact Peer.useOffset_lawful h
    · exact h

theorem Peer.heardEntry_lawful (s : State) (p : Peer) (b : Beacon) (role : Role) (time : Time) (usable : Bool) :
    (s.heardEntry p b role time usable).lawful := by
  rw [State.heardEntry_eq]
  refine ⟨Nat.zero_le _, fun _ => Nat.zero_lt_succ _, fun ha => ?_⟩
  dsimp only at ha
  split at ha <;> cases ha

/-! ### The Role Controller -/

theorem Keeps.setRole (s : State) (r : Role) : Keeps s (s.setRole r) :=
  Keeps.trans (Keeps.blocks s _ _ _ _ _) Keeps.post

theorem Keeps.oweBeacon (s : State) : Keeps s s.oweBeacon := by
  unfold State.oweBeacon
  split
  · exact Keeps.blocks s _ _ _ _ _
  · exact Keeps.blocks s _ _ _ _ _

theorem Keeps.beaconRenewal (s : State) : Keeps s s.beaconRenewal := by
  unfold State.beaconRenewal
  split
  · exact Keeps.oweBeacon s
  · exact Keeps.refl s

theorem Keeps.becomeMember (s : State) : Keeps s s.becomeMember :=
  (Keeps.setRole s .member).trans (Keeps.blocks _ _ _ _ _ _)

theorem Keeps.leaveMember (s : State) : Keeps s s.leaveMember :=
  (((EditWork.ceaseVoting s).keeps.trans (Keeps.clearVerdicts _)).trans (Keeps.endResponder _)).trans
    (Keeps.blocks _ _ _ _ _ _)

theorem Keeps.turnToAlign (s : State) : Keeps s s.turnToAlign :=
  (((Keeps.setRole s .align).trans (Keeps.blocks _ _ _ _ _ _)).trans (Keeps.leaveMember _)).trans (Keeps.catchUpStart _)

theorem Keeps.freeLock (s : State) : Keeps s s.freeLock := Keeps.loseLock s (by simp)

theorem Keeps.emptyBlocks (s : State) (r : Reason) : Keeps s (s.emptyBlocks r) := by
  have h : Keeps s ((s.clearValid.freeLock).emptyEdits r).clearPeers :=
    (((Keeps.blocks s _ _ _ _ _).trans (Keeps.freeLock s.clearValid)).trans (EditWork.emptyEdits _ r).keeps).trans
      (Keeps.clearPeers _)
  unfold State.emptyBlocks
  dsimp only
  generalize ((s.clearValid.freeLock).emptyEdits r).clearPeers = u at h ⊢
  exact h.trans (Keeps.blocks u _ _ _ _ _)

theorem Keeps.settleRole (s : State) (r : Role) : Keeps s (s.settleRole r) :=
  (Keeps.setRole s r).trans (Keeps.blocks _ _ _ _ _ _)

theorem Keeps.goOffline (s : State) : Keeps s s.goOffline := (Keeps.settleRole s .offline).trans (Keeps.emptyBlocks _ _)

theorem Keeps.detach (s : State) (r : Reason) : Keeps s (s.detach r) :=
  (Keeps.post.trans (Keeps.settleRole _ .detached)).trans (Keeps.emptyBlocks _ _)

theorem Keeps.found (s : State) : Keeps s s.found := (Keeps.becomeMember s).trans (Keeps.blocks _ _ _ _ _ _)

theorem Keeps.alignExpiry (s : State) : Keeps s s.alignExpiry := by
  unfold State.alignExpiry
  split
  · exact ((Keeps.becomeMember s).trans (Keeps.blocks _ _ _ _ _ _)).trans (Keeps.abortRequester _)
  · exact ((((Keeps.setRole s .listen).trans (Keeps.blocks _ _ _ _ _ _)).trans (Keeps.abortRequester _)).trans
      (Keeps.freeLock _)).trans (Keeps.blocks _ _ _ _ _ _)

theorem Keeps.waitWork (s : State) : Keeps s s.waitWork := by
  unfold State.waitWork
  split
  · exact Keeps.found s
  · exact Keeps.alignExpiry s
  · split
    · split
      · exact Keeps.blocks s _ _ _ _ _
      · exact Keeps.blocks s _ _ _ _ _
    · exact Keeps.refl s

theorem Keeps.promotion (s : State) : Keeps s s.promotion := by
  unfold State.promotion
  split
  · exact Keeps.becomeMember s
  · exact Keeps.refl s

theorem Keeps.turnStale (s : State) : Keeps s s.turnStale :=
  ((Keeps.blocks s _ _ _ _ _).trans Keeps.post).trans (Keeps.turnToAlign _)

theorem Keeps.countTie (s : State) : Keeps s s.countTie := by
  unfold State.countTie
  dsimp only
  split
  · exact (Keeps.blocks s _ _ _ _ _).trans Keeps.post
  · exact Keeps.blocks s _ _ _ _ _

theorem Keeps.countVerdicts (s : State) (a d : Nat) : Keeps s (s.countVerdicts a d) := by
  unfold State.countVerdicts
  split
  · dsimp only
    split
    · exact (Keeps.blocks s _ _ _ _ _).trans (Keeps.turnStale _)
    · exact Keeps.blocks s _ _ _ _ _
  · split
    · exact Keeps.countTie s
    · split
      · exact Keeps.blocks s _ _ _ _ _
      · exact Keeps.blocks s _ _ _ _ _

theorem Keeps.verdictWork (s : State) : Keeps s s.verdictWork := by
  unfold State.verdictWork
  dsimp only
  split
  · exact (Keeps.clearVerdicts s).trans (Keeps.countVerdicts ..)
  · exact Keeps.clearVerdicts s

theorem Keeps.listenToAlign (s : State) : Keeps s s.listenToAlign :=
  (((Keeps.setRole s .align).trans (Keeps.blocks _ _ _ _ _ _)).trans (Keeps.catchUpStart _)).trans (Keeps.oweBeacon _)

theorem Keeps.renumberRole (s : State) : Keeps s s.renumberRole := by
  unfold State.renumberRole
  split
  · exact (Keeps.blocks s _ _ _ _ _).trans (Keeps.turnToAlign _)
  · exact (Keeps.blocks s _ _ _ _ _).trans (Keeps.catchUpStart _)
  · exact Keeps.blocks s _ _ _ _ _
  all_goals exact Keeps.refl s

theorem Keeps.startLeaving (s : State) : Keeps s s.startLeaving := by
  have hmember : Keeps s (if s.ctl.role = .member then (s.setRole .leaving).leaveMember else s.setRole .leaving) := by
    split
    · exact (Keeps.setRole s .leaving).trans (Keeps.leaveMember _)
    · exact Keeps.setRole s .leaving
  unfold State.startLeaving
  dsimp only
  generalize (if s.ctl.role = .member then (s.setRole .leaving).leaveMember else s.setRole .leaving) = u at hmember ⊢
  have hown : Keeps s u.leaveOwnEdits := hmember.trans (EditWork.leaveOwnEdits u).keeps
  generalize u.leaveOwnEdits = v at hown ⊢
  split
  · exact (hown.trans (Keeps.abortRequester v)).trans (Keeps.blocks _ _ _ _ _ _)
  · exact hown.trans (Keeps.blocks v _ _ _ _ _)

/-! ### The Frame Timer -/

/-- A correction within the limits of R92. -/
theorem Keeps.setCorrection {s : State} {c : Int} (h : s.cfg.values.inRange = true →
    -s.cfg.shorteningLimit ≤ c ∧ c ≤ s.cfg.p) : Keeps s (s.setCorrection c) :=
  { Keeps.blocks s s.wall s.ctl s.catchUp s.bus s.pixel with correction := Or.inr h }

/-- No correction lies within the limits. -/
theorem Keeps.noCorrection (s : State) : Keeps s (s.setCorrection 0) :=
  Keeps.setCorrection fun h => ⟨by have := s.cfg.shorteningLimit_nonneg h; omega, Int.natCast_nonneg _⟩

theorem Keeps.decideAdopt (s : State) (o : Offset) : Keeps s (s.decideAdopt o) :=
  { Keeps.blocks s s.wall s.ctl s.catchUp s.bus s.pixel with
    correction := Or.inr fun h => adoptForm_correction_within _ h }

theorem Keeps.stepTrim (s : State) (e : Int) : Keeps s (s.stepTrim e) := by
  have htrim : ∀ trim, Keeps s { s with timer := { s.timer with trim := trim } } := fun trim =>
    Keeps.setLock s s.timer.lock s.timer.lockCount trim s.timer.advance id
  unfold State.stepTrim
  split
  · split
    · exact Keeps.post
    · exact htrim _
  · split
    · split
      · exact Keeps.post
      · exact htrim _
    · exact Keeps.refl s

/-- A FINE frame start keeps the law of the lock at a station whose lock is engaged. -/
theorem Keeps.fineLock {s : State} (h : s.timer.lock ≠ .free) : Keeps s s.fineLock := by
  unfold State.fineLock
  dsimp only
  split
  · next hlt =>
    refine Keeps.setLock s s.timer.lock _ s.timer.trim s.timer.advance fun hlaw => ⟨by omega, ?_, fun hf => absurd hf h⟩
    have hlock := hlaw.2.1
    constructor
    · intro hl
      have := hlock.1 hl
      omega
    · intro hc
      omega
  · have hset : Keeps s { s with timer := { s.timer with lock := .locked, lockCount := 8 } } :=
      Keeps.setLock s .locked 8 s.timer.trim s.timer.advance fun _ => ⟨by omega, by simp, by simp⟩
    split
    · exact hset.trans Keeps.post
    · exact hset

theorem ConfigRecord.l_le_limits {c : ConfigRecord} (h : c.values.inRange = true) :
    (c.l : Int) ≤ c.shorteningLimit ∧ (c.l : Int) ≤ c.p ∧ 128 ≤ c.l := by
  have hl : 128 ≤ c.l := ((Geometry.inRange_iff c.values).1 h).2.1
  obtain ⟨-, hn⟩ := c.limits_of_inRange h
  refine ⟨?_, ?_, hl⟩
  · unfold ConfigRecord.shorteningLimit
    exact le_mul_of_one_le_left (Int.natCast_nonneg _) (by omega)
  · unfold ConfigRecord.p
    exact_mod_cast Nat.le_mul_of_pos_right c.l (by omega)

theorem stepTrim_lock (s : State) (e : Int) : (s.stepTrim e).timer.lock = s.timer.lock := by
  obtain ⟨tr, ev, h⟩ := s.stepTrim_eq e
  rw [h]

/-- The regimes of R99 to R101 keep the correction within its limits. -/
theorem Keeps.steer {s : State} (h : s.timer.lock ≠ .free) (e : Int) : Keeps s (s.steer e) := by
  unfold State.steer
  split
  · refine (Keeps.setCorrection fun hr => clamp_bounds ?_).trans (Keeps.loseLock _ (by simp))
    have hlimit := s.cfg.shorteningLimit_nonneg hr
    have hp : (0 : Int) ≤ s.cfg.p := Int.natCast_nonneg _
    omega
  · split
    · refine (Keeps.setCorrection fun hr => ?_).trans (Keeps.loseLock _ (by simp))
      obtain ⟨hlimit, hp, -⟩ := s.cfg.l_le_limits hr
      obtain ⟨hlo, hhi⟩ := clamp_bounds (lo := -(s.cfg.l : Int)) (hi := s.cfg.l) (x := e.tdiv 2) (by omega)
      omega
    · next hfine =>
      refine ((Keeps.setCorrection fun hr => ?_).trans (Keeps.stepTrim _ e)).trans (Keeps.fineLock ?_)
      · obtain ⟨hlimit, hp, hl⟩ := s.cfg.l_le_limits hr
        have habs : |e| < 16 := not_le.1 hfine
        have hhalf : -16 < e.tdiv 2 ∧ e.tdiv 2 < 16 := by
          have hnat : (e.tdiv 2).natAbs = e.natAbs / 2 := Int.natAbs_tdiv e 2
          rw [abs_lt] at habs
          omega
        omega
      · rw [stepTrim_lock]
        exact h

theorem Lock.engage_ne_free (l : Lock) : l.engage ≠ .free := by cases l <;> simp [Lock.engage]

/-- The lock of a station with a contributor is engaged (R102). -/
theorem Keeps.engage (s : State) : Keeps s { s with timer := { s.timer with lock := s.timer.lock.engage } } :=
  Keeps.setLock s s.timer.lock.engage s.timer.lockCount s.timer.trim s.timer.advance fun h => by
    obtain ⟨hle, hlocked, hfree⟩ := h
    refine ⟨hle, ?_, fun hc => absurd hc (Lock.engage_ne_free _)⟩
    rw [← hlocked]
    cases s.timer.lock <;> simp [Lock.engage]

theorem Keeps.steerFrame (s : State) : Keeps s s.steerFrame.1 := by
  unfold State.steerFrame
  dsimp only
  by_cases hcs : s.contributors = []
  · have hbase : Keeps s ((s.setCorrection 0).useLiveOffsets) := (Keeps.noCorrection s).trans (Keeps.useLiveOffsets _)
    simp only [hcs, if_true]
    split
    · exact ((hbase.trans (Keeps.decideAdopt _ _)).trans Keeps.post).trans (Keeps.loseLock _ (by simp))
    · exact hbase.trans (Keeps.loseLock _ (by simp))
  · have hbase := ((Keeps.engage s).trans (Keeps.noCorrection _)).trans (Keeps.useLiveOffsets _)
    simp only [hcs, if_false]
    split
    · exact ((hbase.trans (Keeps.decideAdopt _ _)).trans Keeps.post).trans (Keeps.loseLock _ (by simp))
    · split
      · exact hbase
      · exact hbase.trans (Keeps.steer (Lock.engage_ne_free s.timer.lock) _)

theorem Keeps.listenFrame (s : State) : Keeps s s.listenFrame.1 := by
  have hbase : Keeps s ((s.setCorrection 0).useLiveOffsets) := (Keeps.noCorrection s).trans (Keeps.useLiveOffsets _)
  unfold State.listenFrame
  dsimp only
  split
  · exact hbase.trans (Keeps.decideAdopt _ _)
  · exact hbase

theorem Keeps.timerWork (s : State) : Keeps s s.timerWork.1 := by
  unfold State.timerWork
  split
  · exact Keeps.noCorrection s
  · exact Keeps.noCorrection s
  · exact Keeps.listenFrame s
  all_goals exact Keeps.steerFrame s

/-! ### A frame start -/

/-- Every operation of a frame start's work keeps the laws. -/
theorem FramePiece.keeps {f : State → State} (h : FramePiece f) (s : State) : Keeps s (f s) := by
  cases h with
  | timer => exact Keeps.timerWork s
  | renumbered => exact (EditWork.dropAll s _).keeps
  | listenToAlign => exact Keeps.listenToAlign s
  | renumberRole => exact Keeps.renumberRole s
  | missCount => exact Keeps.missCount s
  | verdicts => exact Keeps.verdictWork s
  | promotion => exact Keeps.promotion s
  | wait => exact Keeps.waitWork s
  | dumpApply => exact Keeps.dumpApply s
  | applications => exact Keeps.applications s
  | ownDeadlines => exact (EditWork.ownDeadlines s).keeps
  | collectionDeadlines => exact (EditWork.collectionDeadlines s).keeps
  | queryWaits => exact (EditWork.queryWaits s).keeps
  | goInDoubt => exact (EditWork.goInDoubt s).keeps
  | observerExpiry => exact (EditWork.observerExpiry s).keeps
  | catchUpWaits => exact Keeps.catchUpWaits s
  | beaconRenewal => exact Keeps.beaconRenewal s

/-- After the advance of the frame number a frame start keeps the laws. -/
theorem Keeps.frameStart (s : State) (order : List FrameWork) : Keeps s.advanceFrame (s.frameStart order).state :=
  State.frameStart_keeps (P := Keeps s.advanceFrame) order (Keeps.refl _) (fun _ hf _ h => h.trans (hf.keeps _))
    fun t h => h.trans (Keeps.blocks t _ _ _ _ _)

end Sys2Proof.Machine


/-! # What a command can do: the inversion of exec -/

namespace Sys2Proof.Machine

open Sys2Proof

/-- Work that also leaves the wall state, the clock, the role and the latched copy, and does not light a dark panel. -/
structure Calm (s t : State) : Prop where
  keeps : Keeps s t
  wall : t.wall = s.wall
  timer : t.timer = s.timer
  role : t.ctl.role = s.ctl.role
  latched : t.pixel.latched = s.pixel.latched
  dark : s.pixel.latched.showing = false → s.pixel.rgb = Colour.black → t.pixel.rgb = Colour.black

/-- Calm work that keeps a station outside the wall empty. -/
structure Quiet (s t : State) : Prop extends Calm s t where
  outside : s.outsideLawful → t.outsideLawful

theorem Calm.refl (s : State) : Calm s s := ⟨Keeps.refl s, rfl, rfl, rfl, rfl, fun _ => id⟩

theorem Calm.trans {s t u : State} (h : Calm s t) (g : Calm t u) : Calm s u where
  keeps := h.keeps.trans g.keeps
  wall := g.wall.trans h.wall
  timer := g.timer.trans h.timer
  role := g.role.trans h.role
  latched := g.latched.trans h.latched
  dark := fun hs hb => g.dark (h.latched ▸ hs) (h.dark hs hb)

theorem Quiet.refl (s : State) : Quiet s s := ⟨Calm.refl s, id⟩

theorem Quiet.trans {s t u : State} (h : Quiet s t) (g : Quiet t u) : Quiet s u :=
  ⟨h.toCalm.trans g.toCalm, g.outside ∘ h.outside⟩

/-- At a station that receives, the law of a station outside the wall says nothing. -/
theorem outsideLawful_of_receives {s : State} (h : s.ctl.role.receives = true) : s.outsideLawful :=
  fun hr => absurd hr (by simp [h])

/-- Calm work at a station that receives, or whose state breaks the law of a station outside the wall. -/
theorem Calm.quiet {s t : State} (h : Calm s t) (hr : s.outsideLawful → s.ctl.role.receives = true) : Quiet s t :=
  ⟨h, fun hs => outsideLawful_of_receives (by rw [h.role, hr hs])⟩

theorem Calm.of_eq {s t : State} (keeps : Keeps s t) (hwall : t.wall = s.wall) (htimer : t.timer = s.timer)
    (hrole : t.ctl.role = s.ctl.role) (hpixel : t.pixel = s.pixel) : Calm s t :=
  ⟨keeps, hwall, htimer, hrole, by rw [hpixel], fun _ h => by rw [hpixel, h]⟩

theorem EditWork.calm {s t : State} (h : EditWork s t) : Calm s t :=
  Calm.of_eq h.keeps h.wall h.timer (by rw [h.ctl]) h.pixel

/-- Work on the Bus Interface and the Catch-Up Unit. -/
theorem Calm.bus (s : State) (catchUp : CatchUp) (b : Bus) : Calm s { s with bus := b, catchUp := catchUp } :=
  Calm.of_eq (Keeps.blocks s s.wall s.ctl catchUp b s.pixel) rfl rfl rfl rfl

/-- Work on the Pixel Path and the event queue that neither latches nor lights a dark panel. -/
theorem Quiet.pixel {s : State} {p : PixelPath} {ev : List Event} (hlatched : p.latched = s.pixel.latched)
    (hdark : s.pixel.latched.showing = false → s.pixel.rgb = Colour.black → p.rgb = Colour.black)
    (hlist : s.events.length ≤ 32 → ev.length ≤ 32) : Quiet s { s with pixel := p, events := ev } where
  keeps := { Keeps.blocks s s.wall s.ctl s.catchUp s.bus p with
    lists := fun ⟨hev, hrest⟩ => ⟨hlist hev, hrest⟩ }
  wall := rfl
  timer := rfl
  role := rfl
  latched := hlatched
  dark := hdark
  outside := id

theorem Quiet.post {s : State} {k : EventKind} {st : Option Station} {eid : Option EditId} {r : Option Reason}
    {ro : Option Role} : Quiet s (s.post k st eid r ro) :=
  Quiet.pixel rfl (fun _ => id) fun h => joinQueue_length_le _ h

/-! ### The Pixel Path -/

theorem Quiet.issueFetch (s : State) (n : BufferName) (y : Nat) : Quiet s (s.issueFetch n y) := by
  obtain ⟨p, h, hlatched, -, hrgb, -⟩ := s.issueFetch_eq n y
  rw [h]
  exact Quiet.pixel hlatched (fun _ hb => hrgb.trans hb) id

theorem Quiet.cut (s : State) : Quiet s { s with pixel := s.pixel.cut } := Quiet.pixel rfl (fun _ => id) id

theorem Quiet.clockCut (s : State) : Quiet s s.clockCut :=
  State.clockCut_keeps (P := Quiet s) (Quiet.refl s) fun t h => h.trans (Quiet.cut t)

theorem Quiet.issueRead (s : State) : Quiet s s.issueRead := by
  obtain ⟨f, r, b, h⟩ := s.issueRead_eq
  rw [h]
  exact Quiet.pixel rfl (fun _ => id) id

theorem Quiet.show_of_dark (s : State) : Quiet s (s.show Colour.black) := Quiet.pixel rfl (fun _ _ => rfl) id

theorem Quiet.drawPixel (s : State) (l x : Nat) : Quiet s (s.drawPixel l x) := by
  unfold State.drawPixel
  split
  · next hshow =>
    split
    · exact Quiet.pixel rfl (fun hd => absurd hd (by simp [hshow])) id
    · refine (Quiet.show_of_dark s).trans ?_
      unfold State.underrun
      split
      · exact Quiet.refl _
      · exact Quiet.trans (Quiet.pixel (by rfl) (fun _ => by exact id) id) Quiet.post
  · exact Quiet.show_of_dark s

theorem Quiet.outputPixel (s : State) (l x : Nat) : Quiet s (s.outputPixel l x) := by
  unfold State.outputPixel
  split
  · exact Quiet.refl s
  · exact Quiet.trans (Quiet.pixel (by rfl) (fun _ => by exact id) id) (Quiet.drawPixel _ l x)

theorem Quiet.fill (s : State) (f : Fetch) (index : Byte) : Quiet s { s with pixel := s.pixel.fill f index s.cfg.w } := by
  refine Quiet.pixel ?_ (fun _ hb => ?_) id
  · unfold PixelPath.fill
    cases f.buffer <;> dsimp only <;> split <;> rfl
  · rw [← hb]
    unfold PixelPath.fill
    cases f.buffer <;> dsimp only <;> split <;> rfl

theorem Quiet.takeAnswer (s : State) (index : Byte) : Quiet s (s.takeAnswer index) := by
  unfold State.takeAnswer
  split
  · exact Quiet.pixel rfl (fun _ => id) id
  · split
    · split
      · exact Quiet.fill ..
      · exact Quiet.refl s
    · exact Quiet.refl s

theorem Quiet.clockWork (s : State) : Quiet s s.clockWork := by
  have hissue : Quiet s s.clockIssue := by
    unfold State.clockIssue
    split
    · exact Quiet.issueFetch ..
    · exact Quiet.refl s
  have hread := (hissue.trans (Quiet.clockCut _)).trans (Quiet.issueRead _)
  unfold State.clockWork State.clockOutput
  split
  · exact hread.trans (Quiet.outputPixel ..)
  · exact hread

/-! ### The Bus Interface -/

/-- The own attempt has ended on the bus: what the station drove in its window, and its abandon streak. -/
def State.ended (s : State) (d : WindowDrive) (streak : Nat) : State :=
  { s with bus := { s.bus with attempt := none, driven := d, abandonStreak := streak } }

theorem Quiet.ended (s : State) (d : WindowDrive) (streak : Nat) : Quiet s (s.ended d streak) where
  keeps := Keeps.blocks s s.wall s.ctl s.catchUp _ s.pixel
  wall := rfl
  timer := rfl
  role := rfl
  latched := rfl
  dark := fun _ => id
  outside := fun h hr => by
    obtain ⟨h1, h2, h3, h4, h5, h6, h7, h8, h9, -⟩ := h hr
    exact ⟨h1, h2, h3, h4, h5, h6, h7, h8, h9, fun a ha => by cases ha⟩

theorem voidHead_length (q : List RefusalEntry) : (voidHead q).length = q.length := by cases q <;> rfl

/-- A retried message changes its source's holder alone. -/
theorem Calm.sourceVoided (s : State) (src : Source) : Calm s (s.sourceVoided src) := by
  cases src with
  | beacon => exact Calm.bus s s.catchUp _
  | farewell => exact Calm.of_eq (Keeps.blocks s _ _ _ _ _) rfl rfl rfl rfl
  | refusal => exact (EditWork.refusals s (voidHead s.edit.refusals) fun h => by rwa [voidHead_length]).calm
  | entry i =>
    unfold State.sourceVoided
    dsimp only
    split
    · next e he => exact (EditWork.putEntry he (by rfl)).calm
    · exact Calm.refl s
  | outcome eid => exact EditWork.setOutcome.calm
  | requester => exact Calm.bus s _ s.bus
  | responder => exact Calm.bus s _ s.bus

theorem EditWork.endRefusal (s : State) : EditWork s s.endRefusal :=
  EditWork.refusals s _ fun h => by simpa using Nat.le_trans (Nat.sub_le _ 1) h

/-- A delivered dump message changes the responder context alone. -/
theorem State.responderDelivered_eq (s : State) (kind : MsgKind) : ∃ r, s.responderDelivered kind = s.setResp r := by
  unfold State.responderDelivered
  dsimp only
  split
  · split
    · exact ⟨_, rfl⟩
    · exact ⟨_, rfl⟩
  all_goals exact ⟨_, rfl⟩

/-- A delivered message changes its source's holder alone, a FAREWELL apart. -/
theorem Calm.sourceDelivered (s : State) {t : Transmission} (ht : t.source ≠ .farewell) : Calm s (s.sourceDelivered t) := by
  unfold State.sourceDelivered
  split
  · exact Calm.bus s s.catchUp _
  · next h => exact absurd h ht
  · exact (EditWork.endRefusal s).calm
  · split
    · next e he => exact (EditWork.entryDelivered he _).calm
    · exact Calm.refl s
  · exact EditWork.setOutcome.calm
  · exact Calm.bus s _ s.bus
  · obtain ⟨r, h⟩ := s.responderDelivered_eq t.message.kind
    rw [h]
    exact Calm.bus s _ s.bus

theorem Calm.failedTry (s : State) : Calm s s.failedTry := by
  obtain ⟨hwall, -, -, htimer, hctl, -, hpixel, -⟩ := s.failedTry_frame
  exact Calm.of_eq (Keeps.failedTry s) hwall htimer (by rw [hctl]) hpixel

/-- An abandoned message changes its source's holder alone, a FAREWELL apart. -/
theorem Calm.sourceAbandoned (s : State) {t : Transmission} (ht : t.source ≠ .farewell) :
    Calm s (s.sourceAbandoned t) := by
  unfold State.sourceAbandoned
  split
  · exact Calm.bus s s.catchUp _
  · next h => exact absurd h ht
  · exact (EditWork.endRefusal s).calm
  · split
    · next e he => exact (EditWork.entryAbandoned he _).calm
    · exact Calm.refl s
  · exact EditWork.setOutcome.calm
  · exact Calm.failedTry s
  · exact Calm.bus s _ s.bus

end Sys2Proof.Machine


/-! ### Arrivals -/

namespace Sys2Proof.Machine

open Sys2Proof

theorem Calm.requesterDumpBegin (s : State) (sender requester : Station) (h : Header) :
    Calm s (s.requesterDumpBegin sender requester h) := by
  have hstart : Calm s (s.startReception sender h) := Calm.bus s _ _
  unfold State.requesterDumpBegin
  split
  · exact Calm.refl s
  · split
    · exact hstart
    · split
      · exact hstart
      · exact Calm.refl s
    all_goals exact Calm.refl s

theorem Calm.responderDumpBegin (s : State) (sender requester : Station) :
    Calm s (s.responderDumpBegin sender requester) := by
  unfold State.responderDumpBegin
  split
  · exact Calm.bus s _ _
  · exact Calm.refl s

theorem Calm.dumpDataArrives (s : State) (sender requester : Station) (j : Nat) (records : List Colour) :
    Calm s (s.dumpDataArrives sender requester j records) := by
  unfold State.dumpDataArrives
  split
  · dsimp only
    split
    · exact Calm.bus s _ s.bus
    · exact Calm.bus s _ s.bus
  · exact Calm.refl s

theorem Calm.dumpEndArrives (s : State) (sender requester : Station) (torn : Bool) (check : Half) :
    Calm s (s.dumpEndArrives sender requester torn check) := by
  unfold State.dumpEndArrives
  split
  · split
    · exact Calm.bus s _ s.bus
    · exact Calm.failedTry s
  · exact Calm.refl s

theorem Calm.dumpRequestArrives (s : State) (sender requester : Station) :
    Calm s (s.dumpRequestArrives sender requester) := by
  unfold State.dumpRequestArrives
  split
  · exact Calm.refl s
  · split
    · exact Calm.bus s _ s.bus
    · exact Calm.refl s

theorem Calm.putPeer {s : State} {n : Nat} {p q : Peer} (hp : s.peerAt n = some p) (hq : p.lawful → q.lawful) :
    Calm s (s.putPeer n q) := by
  have hkeeps := Keeps.putPeer s hp hq
  obtain ⟨v, hv⟩ := s.putPeer_eq n q
  rw [hv] at hkeeps ⊢
  exact Calm.of_eq hkeeps rfl rfl rfl rfl

/-- A change of an entry that is posted and handed on as a loss. -/
theorem Calm.losePeer {s : State} {n : Nat} {p q : Peer} {k : EventKind} {st : Station} (hp : s.peerAt n = some p)
    (hq : p.lawful → q.lawful) : Calm s (((s.putPeer n q).post k (some st)).loseVoter st) :=
  ((Calm.putPeer hp hq).trans EditWork.post.calm).trans EditWork.loseVoter.calm

theorem Calm.beaconArrives (s : State) (sender : Station) (b : Beacon) (time : Time) (usable : Bool) :
    Calm s (s.beaconArrives sender b time usable) := by
  unfold State.beaconArrives
  split
  · next role p _ hp =>
    split
    · have hput : Calm s (s.putPeer sender.toNat (s.heardEntry p b role time usable)) :=
        Calm.putPeer hp fun _ => Peer.heardEntry_lawful ..
      unfold State.compatibleBeacon
      dsimp only
      split
      · exact hput.trans EditWork.post.calm
      · exact hput
    · have hlawful : (p.mismatch b role).lawful := ⟨Nat.zero_le _, fun _ => Nat.zero_lt_succ _, fun ha => by cases ha⟩
      unfold State.mismatchingBeacon
      dsimp only
      split
      · exact Calm.putPeer hp fun _ => hlawful
      · exact Calm.losePeer hp fun _ => hlawful
  · exact Calm.refl s

theorem Calm.farewellArrives (s : State) (sender station : Station) : Calm s (s.farewellArrives sender station) := by
  unfold State.farewellArrives
  split
  · exact Calm.refl s
  · split
    · next p hp =>
      split
      · exact Calm.refl s
      · exact Calm.losePeer hp fun _ => Peer.cleared_lawful _
    · exact Calm.refl s

/-! ### The inversion of exec -/

/-- What a command that is neither a reset nor a frame start can do to the part, its response apart. -/
inductive Move (s : State) : State → Prop
  | quiet {u : State} (h : Quiet s u) : Move s u
  | configure (g : Geometry) (hfrozen : s.cfg.frozen = false) (hrole : s.ctl.role = .offline) (hrange : g.inRange = true) :
      Move s { s with cfg := Geometry.record g }
  | join (hrole : s.ctl.role = .offline ∨ s.ctl.role = .detached) (hvalid : s.cfg.valid = true) : Move s s.join
  | goOffline {u : State} (h : Quiet s u) : Move s u.goOffline
  | detach {u : State} (h : Quiet s u) (hr : s.ctl.role.receives = true) (r : Reason) : Move s (u.detach r)
  | startLeaving (hrole : s.ctl.role = .align ∨ s.ctl.role = .member) : Move s s.startLeaving
  | submit (x : Submission) (h : s.submitRefusal x = none) : Move s (s.createOwn x)
  | scan {u v : State} (hrun : s.timer.running = true) (h : Quiet s u) (l x : Nat) (g : Quiet (u.scanTo l x) v) : Move s v

/-- What a command can do to the part, its response apart. -/
inductive Act (s : State) : State → Prop
  | move {u : State} (h : Move s u) : Act s u
  | powerOn : Act s s.powerOn
  | softReset : Act s s.softReset
  | frameStart (order : List FrameWork) (hrun : s.timer.running = true) : Act s (s.frameStart order).state

theorem Move.idle (s : State) : Move s s := Move.quiet (Quiet.refl s)

/-- A transaction does what its command does, and leaves its response at the port. -/
theorem transact_move {s : State} {f : List Byte} {act : Request → Option (State × Response)}
    (h : ∀ r x, act r = some x → Move s x.1) : ∃ u p, Move s u ∧ s.transact f act = { u with port := p } := by
  rcases s.transact_cases f act with ht | ⟨p, ht⟩ | ⟨r, u, resp, p, hact, ht⟩
  · exact ⟨s, s.port, Move.idle s, ht⟩
  · exact ⟨s, p, Move.idle s, ht⟩
  · exact ⟨u, p, h r _ hact, ht⟩

theorem configure_move (s : State) (g : Geometry) : Move s (s.configure g).1 := by
  unfold State.configure
  split
  · exact Move.idle s
  · next hfrozen =>
    split
    · exact Move.idle s
    · next hrole =>
      split
      · exact Move.idle s
      · next hrange =>
        exact Move.configure g (by simpa using hfrozen) (by simpa using hrole) (by simpa using hrange)

theorem joinCommand_move (s : State) : Move s s.joinCommand.1 := by
  unfold State.joinCommand
  split
  case h_1 | h_2 =>
    split
    · next hrole hvalid => exact Move.join (by simp [hrole]) hvalid
    · exact Move.idle s
  all_goals exact Move.idle s

theorem leaveCommand_move (s : State) : Move s s.leaveCommand.1 := by
  unfold State.leaveCommand
  split
  · exact Move.goOffline (Quiet.refl s)
  · next hrole => exact Move.startLeaving (Or.inl hrole)
  · next hrole => exact Move.startLeaving (Or.inr hrole)
  all_goals exact Move.idle s

theorem submit_move (s : State) (x : Submission) : Move s (s.submit x).1 := by
  unfold State.submit
  split
  · exact Move.idle s
  · next h => exact Move.submit x h

theorem readEvent_move (s : State) : Move s s.readEvent.1 := by
  unfold State.readEvent
  split
  · next e rest h =>
    exact Move.quiet (Quiet.pixel rfl (fun _ => id) fun hle => by rw [h] at hle; exact Nat.le_of_succ_le hle)
  · exact Move.idle s

/-- What a control row's command does to the part, a RESET apart. -/
theorem control_move {i : Instr} {f : List Byte} (hi : i.controlFrame = some f) (hreset : i.isReset = false) {s t : State}
    (h : exec i s = .next t) :
    ∃ u p, Move s u ∧ t = { u with port := p } := by
  cases i <;> cases hi <;> cases hreset <;> cases h <;> refine transact_move fun r x hact => ?_ <;> cases r <;> cases hact
  case status => exact Move.idle s
  case configure g => exact configure_move s g
  case join => exact joinCommand_move s
  case leave => exact leaveCommand_move s
  case readPeer => exact Move.idle s
  case readEdit => exact Move.idle s
  case readPalette => exact Move.idle s
  case readEvent => exact readEvent_move s
  all_goals exact submit_move s _

theorem running_of_reaches {s : State} {l x : Nat} (h : s.reaches l x = true) : s.timer.running = true := by
  unfold State.reaches at h
  exact (Bool.and_eq_true_iff.1 h).1

theorem fetchIssue_move {s t : State} {line : Nat} (h : execFetchIssue line s = .next t) : Move s t := by
  unfold execFetchIssue at h
  split at h
  · cases h
    split
    · next hreach =>
      refine Move.scan (running_of_reaches hreach) (Quiet.refl s) line 0 ?_
      unfold State.issueAt
      dsimp only
      split
      · exact Quiet.refl _
      · exact Quiet.issueFetch ..
    · exact Move.idle s
  · cases h
    exact Move.idle s

theorem fetchCut_move {s t : State} (h : execFetchCut s = .next t) : Move s t := by
  unfold execFetchCut at h
  split at h
  · cases h
    split
    · next hreach => exact Move.scan (running_of_reaches hreach) (Quiet.cut s) _ _ (Quiet.refl _)
    · exact Move.idle s
  · cases h
    exact Move.idle s

theorem activePixelScan_move {s t : State} {line pixel : Nat} (h : execActivePixelScan line pixel s = .next t) :
    Move s t := by
  unfold execActivePixelScan at h
  cases h
  split
  · next hreach => exact Move.scan (running_of_reaches hreach.2) (Quiet.refl s) line pixel (Quiet.outputPixel ..)
  · exact Move.idle s

theorem readRequestIssue_move {s t : State} (h : execReadRequestIssue s = .next t) : Move s t := by
  unfold execReadRequestIssue at h
  cases h
  split
  · rcases s.requestNextClock_cases with h | ⟨l, x, hrun, -, h⟩
    · rw [h]
      exact Move.idle s
    · rw [h]
      exact Move.scan hrun (Quiet.refl s) l x ((Quiet.clockCut _).trans (Quiet.issueRead _))
  · exact Move.quiet (Quiet.issueRead s)

theorem Role.receives_of_transmits {r : Role} (h : r.transmits = true) : r.receives = true := by
  cases r <;> first | rfl | exact h

/-- A station that offers a message is in a role that transmits. -/
theorem State.receives_of_offered {s : State} {x : Source × Owed} (h : s.offered = some x) :
    s.ctl.role.receives = true := by
  obtain ⟨hoff, -⟩ := (State.offered_eq_some h).of_filter
  unfold State.offerable at hoff
  exact Role.receives_of_transmits (Bool.and_eq_true_iff.1 hoff).1

theorem startAttempt_move (s : State) (rivals : List (List Byte)) : Move s (s.startAttempt rivals) := by
  unfold State.startAttempt
  split
  · next src o _ hoff =>
    have hr := State.receives_of_offered hoff
    split
    · unfold State.contend
      split
      · exact Move.quiet ((Calm.bus s s.catchUp _).quiet fun _ => hr)
      · unfold State.beginAttempt
        dsimp only
        split
        · exact Move.quiet ((Calm.bus s _ _).quiet fun _ => hr)
        · exact Move.quiet ((Calm.bus s s.catchUp _).quiet fun _ => hr)
    · exact Move.idle s
  · exact Move.idle s

/-- In a lawful state outside the wall the attempt in flight is withdrawn. -/
theorem outsideLawful_of_attempt {s : State} {t : Transmission} (ha : s.bus.attempt = some (.transmitting t))
    (hw : t.withdrawn = false) (h : s.outsideLawful) : s.ctl.role.receives = true := by
  by_contra hr
  obtain ⟨-, -, -, -, -, -, -, -, -, hattempt⟩ := h (by simpa using hr)
  exact absurd (hattempt _ ha) (by simp [Attempt.unheeded, hw])

/-- The own attempt that ends without its source, or at its source, as the source allows. -/
theorem completeAttempt_move {s : State} {t : Transmission} (ha : s.bus.attempt = some (.transmitting t)) (d : WindowDrive)
    (w : Window) : Move s ((s.endAttempt d).completeAttempt t w) := by
  have hheard : t.withdrawn = false → s.outsideLawful → s.ctl.role.receives = true := outsideLawful_of_attempt ha
  have hended := Quiet.ended s d
  cases w
  case heard | unheard =>
    unfold State.completeAttempt
    dsimp only
    split
    · exact Move.quiet (hended 0)
    · next hw =>
      by_cases hsrc : t.source = .farewell
      · have h : (s.ended d 0).sourceDelivered t = (s.ended d 0).goOffline := by simp only [State.sourceDelivered, hsrc]
        exact h ▸ Move.goOffline (hended 0)
      · exact Move.quiet (((hended 0).toCalm.trans (Calm.sourceDelivered _ hsrc)).quiet (hheard (by simpa using hw)))
  case void =>
    unfold State.completeAttempt
    dsimp only
    split
    · split
      · exact Move.quiet (hended s.bus.abandonStreak)
      · next hw =>
        exact Move.quiet (((hended s.bus.abandonStreak).toCalm.trans (Calm.sourceVoided _ _)).quiet
          (hheard (by simpa using hw)))
    · have hposted : Quiet s ((s.ended d (s.bus.abandonStreak + 1)).post .txAbandoned (messageRequester t.message)
          (messageId t.message)) := (hended _).trans Quiet.post
      unfold State.abandon
      dsimp only
      split
      · next hdetach => exact Move.detach hposted hdetach.2 .transmit
      · split
        · exact Move.quiet hposted
        · next hw =>
          generalize hu : (s.ended d (s.bus.abandonStreak + 1)).post .txAbandoned (messageRequester t.message)
            (messageId t.message) = u at hposted
          by_cases hsrc : t.source = .farewell
          · have h : u.sourceAbandoned t = u.goOffline := by simp only [State.sourceAbandoned, hsrc]
            have hact : Move s u.goOffline := Move.goOffline hposted
            rw [← h, ← hu] at hact
            exact hact
          · have hact : Move s (u.sourceAbandoned t) := Move.quiet ((hposted.toCalm.trans (Calm.sourceAbandoned u hsrc)).quiet
              (hheard (by simpa using hw)))
            rw [← hu] at hact
            exact hact

theorem attemptCompletion_move {s t : State} {c : Completion} (h : execAttemptCompletion c s = .next t) : Move s t := by
  unfold execAttemptCompletion at h
  cases h
  split
  · next t ha => exact completeAttempt_move ha _ _
  · exact Move.idle s

/-- A station that has a reception in progress receives. -/
theorem State.receives_of_reception {s : State} {x : Time × Bool} (h : s.reception = some x) :
    s.ctl.role.receives = true := by
  unfold State.reception at h
  split at h
  · assumption
  · cases h

theorem Calm.goodReception (s : State) : Calm s s.goodReception := Calm.bus s s.catchUp _

/-- An arrival whose work is calm. -/
theorem arrive_move {s : State} {f : State → State} (hf : ∀ u, Calm u (f u)) : Move s (s.arrive f) := by
  unfold State.arrive
  split
  · next h => exact Move.quiet (((Calm.goodReception s).trans (hf _)).quiet fun _ => State.receives_of_reception h)
  · exact Move.idle s

theorem beaconArrival_move {s t : State} {sender : Station} {b : Beacon} (h : execBeaconArrival sender b s = .next t) :
    Move s t := by
  unfold execBeaconArrival at h
  cases h
  split
  · next time usable h =>
    have hr := State.receives_of_reception h
    unfold State.receiveBeacon
    split
    · exact Move.detach ((Calm.goodReception s).quiet fun _ => hr) hr .duplicate
    · exact Move.quiet (((Calm.goodReception s).trans (Calm.beaconArrives ..)).quiet fun _ => hr)
  · exact Move.idle s

theorem corruptReception_move {s t : State} (h : execCorruptReception s = .next t) : Move s t := by
  unfold execCorruptReception at h
  cases h
  split
  · next h =>
    obtain ⟨x, hx⟩ := Option.isSome_iff_exists.1 h
    have hr := State.receives_of_reception hx
    unfold State.corrupt
    dsimp only
    split
    · exact Move.detach ((Calm.bus s s.catchUp _).quiet fun _ => hr) hr .receive
    · exact Move.quiet ((Calm.bus s s.catchUp _).quiet fun _ => hr)
  · exact Move.idle s

theorem voidReception_move {s t : State} (h : execVoidReception s = .next t) : Move s t := by
  unfold execVoidReception at h
  cases h
  split
  · next h =>
    obtain ⟨x, hx⟩ := Option.isSome_iff_exists.1 h
    exact Move.quiet ((Calm.bus s s.catchUp _).quiet fun _ => State.receives_of_reception hx)
  · exact Move.idle s

theorem receptionStart_move {s t : State} (h : execReceptionStart s = .next t) : Move s t := by
  unfold execReceptionStart at h
  cases h
  split
  · next h => exact Move.quiet ((Calm.bus s s.catchUp _).quiet fun _ => h.1)
  · exact Move.idle s

theorem idleGap_move {s t : State} (h : execIdleGap s = .next t) : Move s t := by
  unfold execIdleGap at h
  cases h
  split
  · next h => exact Move.quiet ((Calm.bus s s.catchUp _).quiet fun _ => h)
  · exact Move.idle s

/-- A change of the phase of the port is none of the part's. -/
theorem transactionSelect_port {s t : State} (h : execTransactionSelect s = .next t) : ∃ p, t = { s with port := p } := by
  unfold execTransactionSelect at h
  cases h
  split
  · exact ⟨_, rfl⟩
  all_goals exact ⟨s.port, rfl⟩

/-- What a command that is neither a reset nor a frame start leaves is what a move leaves, but for the response at the port. -/
theorem exec_move {i : Instr} {s t : State} (hreset : i.isReset = false) (hframe : i.frameOrder = none)
    (h : exec i s = .next t) : ∃ u p, Move s u ∧ t = { u with port := p } := by
  have plain : Move s t → ∃ u p, Move s u ∧ t = { u with port := p } := fun ha => ⟨t, t.port, ha, rfl⟩
  cases i
  case powerOnReset | resetPin | reset => cases hreset
  case transactionVoided => cases h; exact ⟨s, _, Move.idle s, rfl⟩
  case transactionDeselect => cases h; exact ⟨s, _, Move.idle s, rfl⟩
  case transactionSelect =>
    obtain ⟨p, hp⟩ := transactionSelect_port h
    exact ⟨s, p, Move.idle s, hp⟩
  case frameStart | peerSilent | founding | foundingWaitExpiryAlign | queryWaitExpiry | askWaitExpiry | receiveWaitExpiry
      | retryWaitExpiry => cases hframe
  case fetchIssue => exact plain (fetchIssue_move h)
  case readAnswer => cases h; exact plain (Move.quiet (Quiet.takeAnswer ..))
  case fetchCut => exact plain (fetchCut_move h)
  case activePixelScan => exact plain (activePixelScan_move h)
  case readRequestIssue => exact plain (readRequestIssue_move h)
  case attemptStart => cases h; exact plain (startAttempt_move ..)
  case attemptCompletion => exact plain (attemptCompletion_move h)
  case receptionStart => exact plain (receptionStart_move h)
  case corruptReception => exact plain (corruptReception_move h)
  case voidReception => exact plain (voidReception_move h)
  case idleGap => exact plain (idleGap_move h)
  case beaconArrival => exact plain (beaconArrival_move h)
  case messageDiscarded => cases h; exact plain (arrive_move Calm.refl)
  case farewellArrival => cases h; exact plain (arrive_move fun u => Calm.farewellArrives u _ _)
  case proposeArrival => cases h; exact plain (arrive_move fun u => (EditWork.proposeArrives u _ _ _ _).calm)
  case dataArrival => cases h; exact plain (arrive_move fun u => (EditWork.dataArrives u _ _ _ _).calm)
  case acceptArrival => cases h; exact plain (arrive_move fun u => (EditWork.acceptArrives u _ _).calm)
  case refuseArrival => cases h; exact plain (arrive_move fun u => (EditWork.refuseArrives u _ _).calm)
  case takeArrival => cases h; exact plain (arrive_move fun u => (EditWork.takeArrives u _ _).calm)
  case dropArrival => cases h; exact plain (arrive_move fun u => (EditWork.dropArrives u _ _).calm)
  case queryArrival => cases h; exact plain (arrive_move fun u => (EditWork.queryArrives u _ _).calm)
  case outcomeArrival => cases h; exact plain (arrive_move fun u => (EditWork.outcomeArrives u _ _ _).calm)
  case dumpRequestArrival => cases h; exact plain (arrive_move fun u => Calm.dumpRequestArrives u _ _)
  case dumpBeginArrival =>
    cases h
    exact plain (arrive_move fun u => (Calm.requesterDumpBegin u _ _ _).trans (Calm.responderDumpBegin _ _ _))
  case dumpDataArrival => cases h; exact plain (arrive_move fun u => Calm.dumpDataArrives u _ _ _ _)
  case dumpEndArrival => cases h; exact plain (arrive_move fun u => Calm.dumpEndArrives u _ _ _ _)
  all_goals exact control_move rfl rfl h

/-- A reset loads the reset values, or does nothing but answer. -/
theorem reset_act {i : Instr} {s t : State} (hreset : i.isReset = true) (h : exec i s = .next t) :
    ∃ u p, Act s u ∧ t = { u with port := p } := by
  cases i <;> cases hreset
  case powerOnReset => cases h; exact ⟨_, _, Act.powerOn, rfl⟩
  case resetPin => cases h; exact ⟨_, _, Act.powerOn, rfl⟩
  case reset f =>
    cases h
    rcases s.transact_cases f (fun | .reset => some (s.softReset, done []) | _ => none) with ht | ⟨p, ht⟩ | ⟨r, u, resp, p, hact, ht⟩
    · exact ⟨s, s.port, Act.move (Move.idle s), ht⟩
    · exact ⟨s, p, Act.move (Move.idle s), ht⟩
    · cases r <;> cases hact
      exact ⟨_, p, Act.softReset, ht⟩

/-- A frame-start row is a frame start of a running timer, or nothing. -/
theorem frameStart_act {i : Instr} {s t : State} {order : List FrameWork} (hframe : i.frameOrder = some order)
    (h : exec i s = .next t) : Act s t := by
  have hwith : ∀ event, Act s (s.frameStartWith order event) := by
    intro event
    rcases s.frameStartWith_cases order event with ⟨hrun, -, h⟩ | h
    · rw [h]
      exact Act.frameStart order hrun
    · rw [h]
      exact Act.move (Move.idle s)
  cases i <;> cases hframe <;> cases h <;> exact hwith _

/-- The inversion of exec: what a command leaves is what an act leaves, but for the response at the port. -/
theorem exec_act {i : Instr} {s t : State} (h : exec i s = .next t) : ∃ u p, Act s u ∧ t = { u with port := p } := by
  cases hreset : i.isReset with
  | true => exact reset_act hreset h
  | false =>
    cases hframe : i.frameOrder with
    | some order => exact ⟨t, t.port, frameStart_act hframe h, rfl⟩
    | none =>
      obtain ⟨u, p, hu, ht⟩ := exec_move hreset hframe h
      exact ⟨u, p, Act.move hu, ht⟩

end Sys2Proof.Machine


/-! # Every step keeps the laws of the lists, the peer entries and the edit table -/

namespace Sys2Proof.Machine

open Sys2Proof

theorem Quiet.clockIssue (s : State) : Quiet s s.clockIssue := by
  unfold State.clockIssue
  split
  · exact Quiet.issueFetch ..
  · exact Quiet.refl s

/-- A law that an act keeps, and that does not speak of the port, the queue and the counter of free choices, a step keeps. -/
theorem step_keeps {P : State → Prop} (hfree : ∀ s p q n, P s → P { s with port := p, pending := q, freeCount := n })
    (hact : ∀ {s t}, Act s t → P s → P t) {s t : State} (h : step s = .next t) (hs : P s) : P t := by
  unfold step at h
  split at h
  · next c rest hq =>
    obtain ⟨u, p, hu, rfl⟩ := exec_act h
    exact hfree u p u.pending u.freeCount (hact hu (hfree s s.port rest s.freeCount hs))
  · cases h
    unfold State.tick
    split
    · next hrun =>
      split
      · exact hact (Act.move (Move.quiet (Quiet.clockWork s))) hs
      · unfold State.advanceClock
        split
        · next l x _ => exact hact (Act.move (Move.scan hrun (Quiet.refl s) l x (Quiet.clockWork _))) hs
        · exact hact (Act.move (Move.quiet (Quiet.clockWork _)))
            (hfree _ _ _ _ (hact (Act.frameStart (Config.freeFrameOrder s.freeCount) hrun) hs))
    · exact hs

/-! ### Lists and peer entries -/

theorem clear_lawful {p : Peer} (h : p = p.clear) : p.lawful := h ▸ Peer.cleared_lawful _

theorem reset_peers {n : Nat} {p : Peer} (h : State.reset.peers[n]? = some p) : p = p.clear := by
  simp only [State.reset, tabulate_getElem?] at h
  split at h
  · cases h
    rfl
  · cases h

/-- What an adopt leaves of an entry is lawful: it changes the offset and the capture's valid flag alone. -/
theorem Peer.adopted_lawful {p : Peer} (h : p.lawful) :
    { p.useOffset with capture := { p.capture with valid := false } }.lawful := by
  obtain ⟨hmisses, hlive, habsent⟩ := Peer.useOffset_lawful h
  refine ⟨hmisses, hlive, fun ha => ?_⟩
  have hclear : p = p.clear := h.2.2 ha
  rw [hclear]
  rfl

theorem Keeps.advancePeers {s : State} (h : s.peersLawful) : s.advanceFrame.peersLawful := by
  unfold State.advanceFrame
  dsimp only
  split
  · exact (Keeps.mapPeers s fun _ => Peer.adopted_lawful).peers h
  · exact h

/-- The advance of the frame number leaves the lists and the edit table. -/
theorem State.advanceFrame_rest (s : State) :
    s.advanceFrame.events = s.events ∧ s.advanceFrame.edit = s.edit ∧ s.advanceFrame.ctl = s.ctl
    ∧ s.advanceFrame.wall = s.wall ∧ s.advanceFrame.cfg = s.cfg ∧ s.advanceFrame.catchUp = s.catchUp
    ∧ s.advanceFrame.pixel = s.pixel := by
  unfold State.advanceFrame
  dsimp only
  split <;> exact ⟨rfl, rfl, rfl, rfl, rfl, rfl, rfl⟩

/-- What a JOIN prepares before it changes the role. -/
def State.readied (s : State) : State :=
  { s with cfg := { s.cfg with frozen := true }, timer := s.timer.start, bus := { s.bus with gapSeen := false } }

theorem Keeps.join (s : State) : Keeps s.readied s.join :=
  ((Keeps.setRole s.readied .listen).trans
    ((Keeps.blocks _ _ { (s.readied.setRole .listen).ctl with foundingWait := 0 } _ _ _).trans (Keeps.freeLock _))).trans
    (Keeps.blocks _ _ _ _ _ _)

/-- An own entry leaves the lists and the peers. -/
theorem State.createOwn_rest (s : State) (x : Submission) :
    (s.createOwn x).events = s.events ∧ (s.createOwn x).edit.refusals = s.edit.refusals
    ∧ (s.createOwn x).edit.outcomes = s.edit.outcomes ∧ (s.createOwn x).peers = s.peers := by
  unfold State.createOwn
  split <;> exact ⟨rfl, rfl, rfl, rfl⟩

theorem withinCapacity_of_lists {s t : State} (hs : s.withinCapacity) (hevents : t.events = s.events)
    (hrefusals : t.edit.refusals = s.edit.refusals) (houtcomes : t.edit.outcomes = s.edit.outcomes) : t.withinCapacity := by
  unfold State.withinCapacity
  rw [hevents, hrefusals, houtcomes]
  exact hs

theorem withinCapacity_of_empty {s : State} (hevents : s.events = []) (hedit : s.edit = EditUnit.reset) :
    s.withinCapacity := by
  simp [State.withinCapacity, hevents, hedit, EditUnit.reset]

theorem Act.withinCapacity {s t : State} (h : Act s t) (hs : s.withinCapacity) : t.withinCapacity := by
  cases h with
  | powerOn => exact withinCapacity_of_empty rfl rfl
  | softReset => exact withinCapacity_of_empty rfl rfl
  | frameStart order =>
    obtain ⟨hevents, hedit, -⟩ := s.advanceFrame_rest
    exact (Keeps.frameStart s order).lists (withinCapacity_of_lists hs hevents (by rw [hedit]) (by rw [hedit]))
  | move h =>
    cases h with
    | quiet h => exact h.keeps.lists hs
    | configure => exact hs
    | join => exact (Keeps.join s).lists hs
    | goOffline h => exact (Keeps.goOffline _).lists (h.keeps.lists hs)
    | detach h hr r => exact (Keeps.detach _ r).lists (h.keeps.lists hs)
    | startLeaving => exact (Keeps.startLeaving s).lists hs
    | submit x =>
      obtain ⟨hevents, hrefusals, houtcomes, -⟩ := s.createOwn_rest x
      exact withinCapacity_of_lists hs hevents hrefusals houtcomes
    | scan hrun h l x g => exact g.keeps.lists (h.keeps.lists hs)

theorem Act.peersLawful {s t : State} (h : Act s t) (hs : s.peersLawful) : t.peersLawful := by
  cases h with
  | powerOn => exact fun _ _ hp => clear_lawful (reset_peers hp)
  | softReset => exact (Keeps.clearPeers s).peers hs
  | frameStart order => exact (Keeps.frameStart s order).peers (Keeps.advancePeers hs)
  | move h =>
    cases h with
    | quiet h => exact h.keeps.peers hs
    | configure => exact hs
    | join => exact (Keeps.join s).peers hs
    | goOffline h => exact (Keeps.goOffline _).peers (h.keeps.peers hs)
    | detach h hr r => exact (Keeps.detach _ r).peers (h.keeps.peers hs)
    | startLeaving => exact (Keeps.startLeaving s).peers hs
    | submit x =>
      unfold State.peersLawful
      rw [(s.createOwn_rest x).2.2.2]
      exact hs
    | scan hrun h l x g => exact g.keeps.peers (h.keeps.peers hs)

/-! ### The edit table -/

theorem tableLawful_of_table {s t : State} (hs : s.tableLawful) (h : t.edit.table = s.edit.table) : t.tableLawful :=
  State.tableLawful_of_kernels (fun i => Or.inr (by simp [State.kernelAt, State.entryAt, h])) hs

theorem State.entryAt_of_reset {s : State} (h : s.edit.table = EditUnit.reset.table) (i : Nat) : s.entryAt i = none := by
  by_cases hi : i < 16
  · simp [State.entryAt, h, EditUnit.reset, hi]
  · exact State.entryAt_of_le (by omega)

theorem tableLawful_of_empty {s : State} (h : s.edit = EditUnit.reset) : s.tableLawful := by
  have hnone : ∀ i, s.entryAt i = none := State.entryAt_of_reset (by rw [h])
  have hentries : s.entries = [] := by simp [State.entries, hnone]
  refine ⟨fun i j a b ha => ?_, ?_, ?_⟩
  · rw [hnone] at ha
    cases ha
  · simp [State.ownCount, hentries]
  · simp [State.reserved, hentries]

/-- A SUBMIT that passes its tests adds an own entry that the laws of the table allow (R43, R45). -/
theorem createOwn_tableLawful {s : State} {x : Submission} (h : s.submitRefusal x = none) (hs : s.tableLawful) :
    (s.createOwn x).tableLawful := by
  unfold State.submitRefusal at h
  split at h; · cases h
  split at h; · cases h
  split at h; · cases h
  next hfull =>
  split at h; · cases h
  next hconflict =>
  split at h; · cases h
  next hroom =>
  simp only [Bool.not_eq_true', Bool.not_eq_false, Bool.and_eq_true, decide_eq_true_eq, Option.isNone_iff_eq_none] at hfull
  obtain ⟨⟨hown, -⟩, hid⟩ := hfull
  unfold State.createOwn
  split
  · next i hi =>
    obtain ⟨hlt, hnone, -⟩ := State.freeIndex_some hi
    have hheld : ∀ j a, s.entryAt j = some a → a.target.conflicts x.target = false :=
      State.conflictHeld_eq_false.1 (by simpa using hconflict)
    have hfit : s.reserved + x.target.reservation ≤ 1024 := State.reserved_add_le hs.2.2 (by simpa using hroom)
    have hput : (s.putEntry i (some (s.submittedEntry x))).tableLawful :=
      State.tableLawful_putEntry hs hlt hnone (State.findEntry_none.1 hid) hheld (fun _ => hown) hfit
    exact tableLawful_of_table hput rfl
  · exact hs

theorem Act.tableLawful {s t : State} (h : Act s t) (hs : s.tableLawful) : t.tableLawful := by
  cases h with
  | powerOn => exact tableLawful_of_empty rfl
  | softReset => exact tableLawful_of_empty rfl
  | frameStart order =>
    exact (Keeps.frameStart s order).table (tableLawful_of_table hs (by rw [s.advanceFrame_rest.2.1]))
  | move h =>
    cases h with
    | quiet h => exact h.keeps.table hs
    | configure => exact hs
    | join => exact (Keeps.join s).table hs
    | goOffline h => exact (Keeps.goOffline _).table (h.keeps.table hs)
    | detach h hr r => exact (Keeps.detach _ r).table (h.keeps.table hs)
    | startLeaving => exact (Keeps.startLeaving s).table hs
    | submit x h => exact createOwn_tableLawful h hs
    | scan hrun h l x g => exact g.keeps.table (h.keeps.table hs)

end Sys2Proof.Machine

namespace Sys2Proof

open Sys2Proof.Machine

/-- Settles O56, act by act. -/
theorem stepsKeepTheListsAndThePeerEntriesLawful : Obligations.StepsKeepTheListsAndThePeerEntriesLawful :=
  fun _ _ h => ⟨step_keeps (P := State.withinCapacity) (fun _ _ _ _ => id) Act.withinCapacity h,
    step_keeps (P := State.peersLawful) (fun _ _ _ _ => id) Act.peersLawful h⟩

/-- Settles O58: entries keep their kernels or leave, and one is added only when there is room for it. -/
theorem stepsKeepTheEditTableLawful : Obligations.StepsKeepTheEditTableLawful :=
  fun _ _ hs h => step_keeps (P := State.tableLawful) (fun _ _ _ _ => id) Act.tableLawful h hs

end Sys2Proof


/-! # What an entry to OFFLINE or DETACHED leaves (R130) -/

namespace Sys2Proof.Machine

open Sys2Proof

/-- The state t is what an entry of s to a role outside the wall leaves: nothing of the wall, and the rest as it was. -/
structure Left (s t : State) (r : Role) : Prop where
  wall : t.wall = { s.wall with valid := false }
  timer : t.timer = { s.timer with lock := .free, lockCount := 0 }
  ctl : t.ctl = { RoleControl.reset with role := r }
  pixel : t.pixel = { s.pixel with latched := { s.pixel.latched with showing := false }, rgb := Colour.black }
  entries : ∀ i, t.entryAt i = none
  refusals : t.edit.refusals = []
  outcomes : t.edit.outcomes = []
  peers : t.peers = mapTable Peer.clear s.peers
  catchUp : t.catchUp = CatchUp.reset
  beacon : t.bus.beacon = none
  attempt : ∀ a, t.bus.attempt = some a → a.unheeded
  streaks : t.bus.corruptStreak = 0 ∧ t.bus.abandonStreak = 0
  driven : t.bus.driven = s.bus.driven

/-- Work on the present entries that touches the table at its own index only, and that there leaves what g says of the entry,
leaves at every index what g says of the entry there. A property P of the state may be used when every piece keeps it. -/
theorem State.entryAt_forEntries_bind {f : Nat → EditEntry → State → State} {g : Nat → EditEntry → Option EditEntry}
    {P : State → Prop} {s : State} (h0 : P s) (hf : ∀ i e t, P t → P (f i e t))
    (hlocal : ∀ i e t j, j ≠ i → (f i e t).entryAt j = t.entryAt j)
    (hat : ∀ i e t, P t → t.entryAt i = some e → (f i e t).entryAt i = g i e) (k : Nat) :
    (s.forEntries f).entryAt k = (s.entryAt k).bind (g k) := by
  cases hk : s.entryAt k with
  | none =>
    refine State.forEntries_induction (P := fun t => t.entryAt k = none) hk fun i e t ht he => ?_
    have hne : k ≠ i := by
      rintro rfl
      rw [ht] at he
      cases he
    rw [hlocal i e t k hne, ht]
  | some e =>
    obtain ⟨t, hP, ht, hwork⟩ := State.entryAt_forEntries h0 (fun i e t _ => hf i e t) hlocal hk
    exact hwork.trans (hat k e t hP ht)

theorem State.entryAt_dropEntry_of_ne (s : State) {i j : Nat} (h : j ≠ i) (e : EditEntry) (r : Reason) (st : Option Station) :
    (s.dropEntry i e r st).entryAt j = s.entryAt j := by
  rw [State.entryAt_dropEntry, if_neg fun hc => h hc.1.symm]

theorem State.entryAt_dropEntry_self (s : State) (i : Nat) (e : EditEntry) (r : Reason) (st : Option Station) :
    (s.dropEntry i e r st).entryAt i = none := by
  rw [State.entryAt_dropEntry]
  split
  · rfl
  · next h => exact State.entryAt_of_le (not_lt.1 fun hi => h ⟨rfl, hi⟩)

theorem State.dropAll_entryAt (s : State) (r : Reason) (k : Nat) : (s.dropAll r).entryAt k = none := by
  have h := State.entryAt_forEntries_bind (f := fun i e s => s.dropEntry i e r) (g := fun _ _ => none) (P := fun _ => True)
    (s := s) trivial (fun _ _ _ => id) (fun i e t j hj => t.entryAt_dropEntry_of_ne hj e r none)
    (fun i e t _ _ => t.entryAt_dropEntry_self i e r none) k
  exact h.trans (by cases s.entryAt k <;> rfl)

theorem foldl_withdraw_edit {α : Type} (src : α → Source) (xs : List α) (s : State) :
    (xs.foldl (fun s x => s.withdraw (src x)) s).edit = s.edit := by
  induction xs generalizing s with
  | nil => rfl
  | cons x xs ih => exact ih _

/-- An entry to OFFLINE or DETACHED leaves no entry, no refusal and no outcome (R42). -/
theorem State.emptyEdits_none (s : State) (r : Reason) :
    (∀ i, (s.emptyEdits r).entryAt i = none) ∧ (s.emptyEdits r).edit.refusals = [] ∧ (s.emptyEdits r).edit.outcomes = [] := by
  have hnone := s.dropAll_entryAt r
  unfold State.emptyEdits State.entryAt
  generalize s.dropAll r = u at hnone
  dsimp only
  rw [foldl_withdraw_edit fun o : OutcomeEntry => Source.outcome o.id]
  exact ⟨hnone, rfl, rfl⟩

/-- An attempt given up completes unheeded. -/
theorem Attempt.giveUp_unheeded {a : Option Attempt} {b : Attempt} (h : a.bind Attempt.giveUp = some b) : b.unheeded := by
  obtain ⟨a, -, ha⟩ := Option.bind_eq_some_iff.1 h
  cases a with
  | transmitting x =>
    cases ha
    rfl
  | receiving => cases ha

theorem State.emptyBlocks_left {s : State} {r : Role} (hctl : s.ctl = { RoleControl.reset with role := r }) (why : Reason) :
    Left s (s.emptyBlocks why) r := by
  obtain ⟨ev, hfree⟩ := s.clearValid.loseLock_eq .free
  have hedit := EditWork.emptyEdits s.clearValid.freeLock why
  obtain ⟨hentries, hrefusals, houtcomes⟩ := s.clearValid.freeLock.emptyEdits_none why
  unfold State.emptyBlocks
  dsimp only
  generalize hu : (s.clearValid.freeLock).emptyEdits why = u at hedit hentries hrefusals houtcomes
  obtain ⟨hwall, htimer, hc, hpixel, hpeers⟩ :=
    And.intro hedit.wall (And.intro hedit.timer (And.intro hedit.ctl (And.intro hedit.pixel hedit.peers)))
  have hdriven : u.bus.driven = s.clearValid.freeLock.bus.driven := by rw [hedit.bus]
  rw [State.freeLock, hfree] at hwall htimer hc hpixel hpeers hdriven
  exact
    { wall := hwall, timer := htimer, ctl := hc.trans hctl, pixel := hpixel
      entries := hentries, refusals := hrefusals, outcomes := houtcomes
      peers := congrArg (mapTable Peer.clear) hpeers
      catchUp := rfl, beacon := rfl
      attempt := fun _ h => Attempt.giveUp_unheeded h
      streaks := ⟨rfl, rfl⟩, driven := hdriven }

/-- The change of the role before an entry to OFFLINE or DETACHED is in none of the items that Left speaks of. -/
theorem Left.of_role {s u t : State} {r : Role} (h : Left u t r) (hwall : u.wall = s.wall) (htimer : u.timer = s.timer)
    (hpixel : u.pixel = s.pixel) (hpeers : u.peers = s.peers)
    (hdriven : u.bus.driven = s.bus.driven) : Left s t r :=
  { h with wall := hwall ▸ h.wall, timer := htimer ▸ h.timer, pixel := hpixel ▸ h.pixel, peers := hpeers ▸ h.peers
           driven := h.driven.trans hdriven }

theorem State.goOffline_left (s : State) : Left s s.goOffline .offline :=
  (State.emptyBlocks_left (s := s.settleRole .offline) rfl .left).of_role rfl rfl rfl rfl rfl

theorem State.detach_left (s : State) (why : Reason) : Left s (s.detach why) .detached :=
  (State.emptyBlocks_left (s := (s.post .detached none none (some why)).settleRole .detached) rfl .detached).of_role rfl rfl
    rfl rfl rfl

end Sys2Proof.Machine


/-! # Every step keeps the laws of the record, the timer and the lock -/

namespace Sys2Proof.Machine

open Sys2Proof

/-- The laws of the record, the timer and the correction together. -/
def State.timerLawful (s : State) : Prop := s.recordLawful ∧ s.correctionLawful

/-- Work at a running timer, or work that leaves the correction, keeps the laws while no station leaves OFFLINE by it. -/
theorem Keeps.timerLawful {s t : State} (h : Keeps s t) (hcorrection : s.timer.running = true ∨ t.timer.correction = s.timer.correction)
    (hrole : t.ctl.role ≠ .offline → s.timer.running = true) (hs : s.timerLawful) : t.timerLawful := by
  obtain ⟨⟨hrange, hvalid, hfrozen, -, hstopped⟩, hzero, hbounds⟩ := hs
  obtain ⟨hrun, hframe, hline, hpixel⟩ := h.clock
  unfold State.timerLawful State.recordLawful State.correctionLawful
  rw [h.cfg, hrun, hframe, hline, hpixel]
  refine ⟨⟨hrange, hvalid, hfrozen, hrole, hstopped⟩, fun hf => ?_, fun hv => ?_⟩
  · rcases hcorrection with hr | hc
    · rw [hfrozen hr] at hf
      cases hf
    · rw [hc, hzero hf]
  · rcases h.correction with hc | hc
    · rw [hc]
      exact hbounds hv
    · exact hc (hrange hv)

/-- At every role but OFFLINE the timer runs. -/
theorem State.running_of_role {s : State} (hs : s.timerLawful) (h : s.ctl.role ≠ .offline) : s.timer.running = true :=
  hs.1.2.2.2.1 h

/-- A station in OFFLINE with a frozen or a running timer alike: what a soft reset and a power-on reset leave. -/
theorem timerLawful_of_reset {s t : State} (hs : s.timerLawful) (hcfg : t.cfg = s.cfg)
    (htimer : t.timer = { Timer.reset with running := s.timer.running, trim := s.timer.trim })
    (hrole : t.ctl.role = .offline) : t.timerLawful := by
  obtain ⟨⟨hrange, hvalid, hfrozen, -, -⟩, -⟩ := hs
  unfold State.timerLawful State.recordLawful State.correctionLawful
  rw [hcfg, htimer, hrole]
  refine ⟨⟨hrange, hvalid, hfrozen, fun h => absurd rfl h, fun _ => ⟨rfl, rfl, rfl⟩⟩, fun _ => rfl, fun hv => ?_⟩
  have hlimit := s.cfg.shorteningLimit_nonneg (hrange hv)
  exact ⟨by simpa [Timer.reset] using hlimit, Int.natCast_nonneg _⟩

theorem reset_timerLawful : State.reset.timerLawful := by
  refine ⟨⟨fun h => ?_, fun h => ?_, fun h => ?_, fun h => absurd rfl h, fun _ => ⟨rfl, rfl, rfl⟩⟩, fun _ => rfl, fun h => ?_⟩
    <;> cases h

/-- A configured record is not frozen, and it is in range (R175). -/
theorem configure_timerLawful {s : State} {g : Geometry} (hs : s.timerLawful) (hfrozen : s.cfg.frozen = false)
    (hrole : s.ctl.role = .offline) (hrange : g.inRange = true) : { s with cfg := Geometry.record g }.timerLawful := by
  obtain ⟨⟨-, -, hrun, -, hstopped⟩, hzero, -⟩ := hs
  have hstop : s.timer.running = false := by
    by_contra h
    rw [hrun (by simpa using h)] at hfrozen
    cases hfrozen
  have hlimit : -(Geometry.record g).shorteningLimit ≤ 0 := by
    have := (Geometry.record g).shorteningLimit_nonneg hrange
    omega
  refine ⟨⟨fun _ => hrange, fun h => ?_, fun h => ?_, fun h => absurd hrole h, hstopped⟩, fun _ => hzero hfrozen, fun _ => ?_⟩
  · cases h
  · rw [hstop] at h
    cases h
  · rw [hzero hfrozen]
    exact ⟨hlimit, Int.natCast_nonneg _⟩

/-- A JOIN freezes a valid record and starts the timer (R90, R116, R176). -/
theorem readied_timerLawful {s : State} (hs : s.timerLawful) (hvalid : s.cfg.valid = true) :
    s.readied.timerLawful ∧ s.readied.timer.running = true := by
  obtain ⟨⟨hrange, -⟩, -, hbounds⟩ := hs
  have hrun : s.readied.timer.running = true := by
    unfold State.readied Timer.start
    dsimp only
    split <;> trivial
  refine ⟨⟨⟨hrange, fun _ => hvalid, fun _ => rfl, fun _ => hrun, fun h => ?_⟩, fun h => ?_, fun hv => ?_⟩, hrun⟩
  · rw [hrun] at h
    cases h
  · cases h
  · have hlimit : -s.cfg.shorteningLimit ≤ 0 := by
      have := s.cfg.shorteningLimit_nonneg (hrange hv)
      omega
    unfold State.readied Timer.start
    dsimp only
    split
    · exact hbounds hv
    · exact ⟨hlimit, Int.natCast_nonneg _⟩

/-- A move of the scan position under a running timer. -/
theorem timerLawful_of_scan {s t : State} (hs : s.timerLawful) (hrun : s.timer.running = true) (hcfg : t.cfg = s.cfg)
    (hrunning : t.timer.running = true) (hcorrection : t.timer.correction = s.timer.correction) : t.timerLawful := by
  obtain ⟨⟨hrange, hvalid, hfrozen, -, -⟩, hzero, hbounds⟩ := hs
  unfold State.timerLawful State.recordLawful State.correctionLawful
  rw [hcfg, hcorrection, hrunning]
  exact ⟨⟨hrange, hvalid, fun _ => hfrozen hrun, fun _ => rfl, fun h => by cases h⟩, hzero, hbounds⟩

theorem Act.timerLawful {s t : State} (h : Act s t) (hs : s.timerLawful) : t.timerLawful := by
  have quiet : ∀ {u v : State}, u.timerLawful → Quiet u v → v.timerLawful := fun hu h =>
    h.keeps.timerLawful (Or.inr (by rw [h.timer])) (fun hr => State.running_of_role hu (by rwa [h.role] at hr)) hu
  cases h with
  | powerOn => exact reset_timerLawful
  | softReset => exact timerLawful_of_reset hs rfl rfl rfl
  | frameStart order hrun =>
    obtain ⟨-, -, -, -, hcfg, -⟩ := s.advanceFrame_rest
    have htimer := s.advanceFrame_timer
    have hadvanced : s.advanceFrame.timerLawful := timerLawful_of_scan hs hrun hcfg (by rw [htimer]; exact hrun) (by rw [htimer])
    have hrunning : s.advanceFrame.timer.running = true := by
      rw [htimer]
      exact hrun
    exact (Keeps.frameStart s order).timerLawful (Or.inl hrunning) (fun _ => hrunning) hadvanced
  | move h =>
    cases h with
    | quiet h => exact quiet hs h
    | configure g hfrozen hrole hrange => exact configure_timerLawful hs hfrozen hrole hrange
    | join hrole hvalid =>
      obtain ⟨hready, hrun⟩ := readied_timerLawful hs hvalid
      exact (Keeps.join s).timerLawful (Or.inl hrun) (fun _ => hrun) hready
    | @goOffline u h =>
      have hleft := u.goOffline_left
      exact (Keeps.goOffline u).timerLawful (Or.inr (by rw [hleft.timer])) (fun hr => absurd (by rw [hleft.ctl]) hr) (quiet hs h)
    | @detach u h hr r =>
      have hrun : u.timer.running = true := by
        rw [h.timer]
        exact State.running_of_role hs fun ho => by
          rw [ho] at hr
          cases hr
      exact (Keeps.detach u r).timerLawful (Or.inl hrun) (fun _ => hrun) (quiet hs h)
    | startLeaving hrole =>
      have hrun := State.running_of_role hs (by rcases hrole with h | h <;> simp [h])
      exact (Keeps.startLeaving s).timerLawful (Or.inl hrun) (fun _ => hrun) hs
    | submit x h =>
      unfold State.createOwn
      split <;> exact hs
    | @scan u v hrun h l x g =>
      have hu : u.timer.running = true := by
        rw [h.timer]
        exact hrun
      have hscan : (u.scanTo l x).timerLawful := timerLawful_of_scan (quiet hs h) hu rfl hu rfl
      exact quiet hscan g

/-! ### The lock -/

theorem reset_lockLawful {s : State} (hcount : s.timer.lockCount = 0) (hlock : s.timer.lock = .free) : s.lockLawful := by
  simp [State.lockLawful, hcount, hlock]

theorem lockLawful_of_lock {s t : State} (hs : s.lockLawful) (hlock : t.timer.lock = s.timer.lock)
    (hcount : t.timer.lockCount = s.timer.lockCount) : t.lockLawful := by
  unfold State.lockLawful
  rw [hlock, hcount]
  exact hs

theorem Act.lockLawful {s t : State} (h : Act s t) (hs : s.lockLawful) : t.lockLawful := by
  cases h with
  | powerOn => exact reset_lockLawful rfl rfl
  | softReset => exact reset_lockLawful rfl rfl
  | frameStart order =>
    have htimer := s.advanceFrame_timer
    exact (Keeps.frameStart s order).lock (lockLawful_of_lock hs (by rw [htimer]) (by rw [htimer]))
  | move h =>
    cases h with
    | quiet h => exact h.keeps.lock hs
    | configure => exact hs
    | join =>
      refine (Keeps.join s).lock ?_
      unfold State.readied Timer.start
      dsimp only
      split <;> exact hs
    | goOffline h => exact (Keeps.goOffline _).lock (h.keeps.lock hs)
    | detach h hr r => exact (Keeps.detach _ r).lock (h.keeps.lock hs)
    | startLeaving => exact (Keeps.startLeaving s).lock hs
    | submit x h =>
      unfold State.createOwn
      split <;> exact hs
    | scan hrun h l x g => exact g.keeps.lock (lockLawful_of_lock (h.keeps.lock hs) rfl rfl)

end Sys2Proof.Machine

namespace Sys2Proof

open Sys2Proof.Machine

/-- Settles O57: the record is replaced only while it is not frozen, and every correction lies within the limits of R92. -/
theorem stepsKeepTheRecordAndTheTimerLawful : Obligations.StepsKeepTheRecordAndTheTimerLawful :=
  fun _ _ h => ⟨fun hrecord hcorrection => step_keeps (P := State.timerLawful) (fun _ _ _ _ => id) Act.timerLawful h
      ⟨hrecord, hcorrection⟩,
    step_keeps (P := State.lockLawful) (fun _ _ _ _ => id) Act.lockLawful h⟩

end Sys2Proof


/-! # A frame start takes no station out of the wall -/

namespace Sys2Proof.Machine

open Sys2Proof

/-- Work that takes no station out of the wall. -/
def Stays (s t : State) : Prop := s.ctl.role.receives = true → t.ctl.role.receives = true

theorem Stays.refl (s : State) : Stays s s := id

theorem Stays.trans {s t u : State} (h : Stays s t) (g : Stays t u) : Stays s u := g ∘ h

theorem Stays.of_eq {s t : State} (h : t.ctl.role = s.ctl.role) : Stays s t := fun hs => by rwa [h]

/-- Work that ends in a role of the wall. -/
theorem Stays.of_role {s t : State} (h : t.ctl.role.receives = true) : Stays s t := fun _ => h

theorem EditWork.stays {s t : State} (h : EditWork s t) : Stays s t := Stays.of_eq (by rw [h.ctl])

/-- Work of the Catch-Up Unit, the Bus Interface and the Role Controller that leaves the role. -/
theorem Stays.blocks (s : State) (ctl : RoleControl) (catchUp : CatchUp) (bus : Bus) (h : ctl.role = s.ctl.role) :
    Stays s { s with ctl := ctl, catchUp := catchUp, bus := bus } := Stays.of_eq h

theorem Stays.setRole (s : State) {r : Role} (h : r.receives = true) : Stays s (s.setRole r) :=
  Stays.of_role h

/-! ### The Catch-Up Unit and the applications -/

theorem Stays.catchUpStart (s : State) : Stays s s.catchUpStart := by
  unfold State.catchUpStart
  split <;> exact Stays.of_eq rfl

theorem Stays.failedTry (s : State) : Stays s s.failedTry := by
  obtain ⟨-, -, -, -, hctl, -⟩ := s.failedTry_frame
  exact Stays.of_eq (by rw [hctl])

theorem Stays.catchUpWaits (s : State) : Stays s s.catchUpWaits := by
  unfold State.catchUpWaits
  split
  · exact Stays.failedTry s
  · split
    · exact Stays.of_eq rfl
    · dsimp only
      split <;> exact Stays.of_eq rfl

theorem Stays.endResponder (s : State) : Stays s s.endResponder := by
  unfold State.endResponder
  dsimp only
  split
  · exact Stays.refl s
  · split <;> exact Stays.of_eq rfl
  · split <;> exact Stays.of_eq rfl

theorem Stays.abortRequester (s : State) : Stays s s.abortRequester :=
  (Stays.blocks s _ _ _ (by rfl)).trans (EditWork.clearDeferred _).stays

theorem Stays.applyEntry (s : State) (i : Nat) (e : EditEntry) : Stays s (s.applyEntry i e) :=
  Stays.of_eq rfl

theorem Stays.deferEntry (s : State) (i : Nat) (e : EditEntry) : Stays s (s.deferEntry i e) := by
  unfold State.deferEntry
  dsimp only
  split
  · exact Stays.trans (t := s.putEntry i (some { e with deferred := true })) (Stays.of_eq rfl)
      EditWork.noteMissed.stays
  · exact Stays.of_eq rfl

theorem Stays.takeDue (s : State) (due : EditEntry → Bool) : Stays s (s.takeDue due) :=
  State.takeDue_induction (P := Stays s) due (Stays.refl s) (fun t i e h => h.trans (Stays.applyEntry t i e))
    fun t i e h => h.trans (Stays.deferEntry t i e)

theorem Stays.applyDeferred (s : State) (f : FrameNo) : Stays s (s.applyDeferred f) :=
  State.applyDeferred_induction (P := Stays s) f (Stays.refl s) (fun _ _ h => h.trans EditWork.removeEntry.stays)
    fun t i e h => h.trans (Stays.applyEntry t i e)

theorem Stays.dumpApply (s : State) : Stays s s.dumpApply := by
  unfold State.dumpApply
  split
  · next h _ _ =>
    have hload : Stays s (s.loadDump h) := Stays.of_eq rfl
    obtain ⟨-, -, -, hctl, -⟩ := s.applyDump_rest h
    exact (hload.trans (Stays.applyDeferred _ h.frame)).trans (Stays.of_eq (by rw [hctl]))
  · exact Stays.refl s

theorem Stays.loseLock (s : State) (l : Lock) : Stays s (s.loseLock l) := by
  obtain ⟨ev, h⟩ := s.loseLock_eq l
  rw [h]
  exact Stays.of_eq rfl

/-! ### The Peer Table and the Role Controller -/

theorem Stays.putPeer (s : State) (n : Nat) (p : Peer) : Stays s (s.putPeer n p) := by
  obtain ⟨v, h⟩ := s.putPeer_eq n p
  rw [h]
  exact Stays.of_eq rfl

theorem Stays.missAt (s : State) (n : Nat) : Stays s (s.missAt n) := by
  unfold State.missAt
  split
  · split
    · exact Stays.putPeer _ _ _
    · split
      · exact (Stays.putPeer _ _ _).trans EditWork.loseVoter.stays
      · split
        · exact ((Stays.putPeer _ _ _).trans EditWork.post.stays).trans EditWork.loseVoter.stays
        · exact Stays.putPeer _ _ _
      all_goals exact Stays.refl s
  · exact Stays.refl s

theorem Stays.missCount (s : State) : Stays s s.missCount :=
  State.missCount_induction (P := Stays s) (Stays.refl s) fun n t h => h.trans (Stays.missAt t n)

theorem Stays.clearVerdicts (s : State) : Stays s s.clearVerdicts := Stays.of_eq rfl

theorem Stays.restartCounts (s : State) : Stays s s.restartCounts := Stays.of_eq rfl

theorem Stays.withdrawBeacon (s : State) : Stays s s.withdrawBeacon := Stays.of_eq rfl

theorem Stays.becomeMember (s : State) : Stays s s.becomeMember := Stays.of_role rfl

theorem Stays.leaveMember (s : State) : Stays s s.leaveMember :=
  (((EditWork.ceaseVoting s).stays.trans (Stays.clearVerdicts _)).trans (Stays.endResponder _)).trans
    (Stays.restartCounts _)

theorem Stays.turnToAlign (s : State) : Stays s s.turnToAlign :=
  (((Stays.setRole s rfl).trans (Stays.blocks _ _ _ _ (by rfl))).trans (Stays.leaveMember _)).trans (Stays.catchUpStart _)

theorem Stays.turnStale (s : State) : Stays s s.turnStale :=
  ((Stays.blocks s _ _ _ (by rfl)).trans EditWork.post.stays).trans (Stays.turnToAlign _)

theorem Stays.oweBeacon (s : State) : Stays s s.oweBeacon := by
  unfold State.oweBeacon
  split <;> exact Stays.of_eq rfl

theorem Stays.beaconRenewal (s : State) : Stays s s.beaconRenewal := by
  unfold State.beaconRenewal
  split
  · exact Stays.oweBeacon s
  · exact Stays.refl s

theorem Stays.listenToAlign (s : State) : Stays s s.listenToAlign :=
  (((Stays.setRole s rfl).trans (Stays.blocks _ _ _ _ (by rfl))).trans (Stays.catchUpStart _)).trans (Stays.oweBeacon _)

theorem Stays.renumberRole (s : State) : Stays s s.renumberRole := by
  unfold State.renumberRole
  split
  · exact (Stays.blocks s _ _ _ (by rfl)).trans (Stays.turnToAlign _)
  · exact (Stays.blocks s _ _ _ (by rfl)).trans (Stays.catchUpStart _)
  all_goals exact Stays.of_eq rfl

theorem Stays.countVerdicts (s : State) (a d : Nat) : Stays s (s.countVerdicts a d) := by
  unfold State.countVerdicts
  split
  · dsimp only
    split
    · exact (Stays.blocks s _ _ _ (by rfl)).trans (Stays.turnStale _)
    · exact Stays.of_eq rfl
  · split
    · unfold State.countTie
      dsimp only
      split <;> exact Stays.of_eq rfl
    · split <;> exact Stays.of_eq rfl

theorem Stays.verdictWork (s : State) : Stays s s.verdictWork := by
  unfold State.verdictWork
  dsimp only
  split
  · exact (Stays.clearVerdicts s).trans (Stays.countVerdicts _ _ _)
  · exact Stays.clearVerdicts s

theorem Stays.promotion (s : State) : Stays s s.promotion := by
  unfold State.promotion
  split
  · exact Stays.becomeMember s
  · exact Stays.refl s

theorem Stays.alignExpiry (s : State) : Stays s s.alignExpiry := by
  unfold State.alignExpiry
  split
  · exact ((Stays.becomeMember s).trans (Stays.blocks _ _ _ _ (by rfl))).trans (Stays.abortRequester _)
  · have hlisten : Stays s (((s.setRole .listen).restartWait).setStale false) := Stays.of_role rfl
    exact ((hlisten.trans (Stays.abortRequester _)).trans (Stays.loseLock _ _)).trans (Stays.withdrawBeacon _)

theorem Stays.waitWork (s : State) : Stays s s.waitWork := by
  unfold State.waitWork
  split
  · exact Stays.of_role rfl
  · exact Stays.alignExpiry s
  · split
    · split <;> exact Stays.of_eq rfl
    · exact Stays.refl s

/-! ### The Frame Timer -/

theorem Stays.useLiveOffsets (s : State) (c : Int) : Stays s ((s.setCorrection c).useLiveOffsets) :=
  Stays.of_eq rfl

theorem Stays.decideAdopt (s : State) (o : Offset) : Stays s (s.decideAdopt o) := Stays.of_eq rfl

theorem Stays.steer (s : State) (e : Int) : Stays s (s.steer e) := by
  have hset : ∀ c, Stays s (s.setCorrection c) := fun _ => Stays.of_eq rfl
  unfold State.steer
  split
  · exact (hset _).trans (Stays.loseLock _ _)
  · split
    · exact (hset _).trans (Stays.loseLock _ _)
    · refine (hset (e.tdiv 2)).trans ?_
      generalize s.setCorrection (e.tdiv 2) = u
      obtain ⟨tr, ev, htrim⟩ := u.stepTrim_eq e
      obtain ⟨l, c, ev', hlock⟩ := (u.stepTrim e).fineLock_eq
      rw [hlock, htrim]
      exact Stays.of_eq rfl

theorem Stays.listenFrame (s : State) : Stays s s.listenFrame.1 := by
  unfold State.listenFrame
  dsimp only
  split
  · exact (Stays.useLiveOffsets s 0).trans (Stays.decideAdopt _ _)
  · exact Stays.useLiveOffsets s 0

theorem Stays.steerFrame (s : State) : Stays s s.steerFrame.1 := by
  have hengaged : Stays s (if s.contributors = [] then s
      else { s with timer := { s.timer with lock := s.timer.lock.engage } }) := by
    split
    · exact Stays.refl s
    · exact Stays.of_eq rfl
  rw [State.steerFrame_eq]
  dsimp only
  generalize (if s.contributors = [] then s else { s with timer := { s.timer with lock := s.timer.lock.engage } }) = u
    at hengaged ⊢
  have hbase := hengaged.trans (Stays.useLiveOffsets u 0)
  split
  · exact ((hbase.trans (Stays.decideAdopt _ _)).trans EditWork.post.stays).trans (Stays.loseLock _ _)
  · split
    · exact hbase.trans (Stays.loseLock _ _)
    · split
      · exact hbase
      · exact hbase.trans (Stays.steer _ _)

theorem Stays.timerWork (s : State) : Stays s s.timerWork.1 := by
  unfold State.timerWork
  split
  · exact Stays.of_eq rfl
  · exact Stays.of_eq rfl
  · exact Stays.listenFrame s
  all_goals exact Stays.steerFrame s

theorem FramePiece.stays {f : State → State} (h : FramePiece f) (s : State) : Stays s (f s) := by
  cases h with
  | timer => exact Stays.timerWork s
  | renumbered => exact (EditWork.dropAll s _).stays
  | listenToAlign => exact Stays.listenToAlign s
  | renumberRole => exact Stays.renumberRole s
  | missCount => exact Stays.missCount s
  | verdicts => exact Stays.verdictWork s
  | promotion => exact Stays.promotion s
  | wait => exact Stays.waitWork s
  | dumpApply => exact Stays.dumpApply s
  | applications => exact (Stays.takeDue s _).trans (Stays.takeDue _ _)
  | ownDeadlines => exact (EditWork.ownDeadlines s).stays
  | collectionDeadlines => exact (EditWork.collectionDeadlines s).stays
  | queryWaits => exact (EditWork.queryWaits s).stays
  | goInDoubt => exact (EditWork.goInDoubt s).stays
  | observerExpiry => exact (EditWork.observerExpiry s).stays
  | catchUpWaits => exact Stays.catchUpWaits s
  | beaconRenewal => exact Stays.beaconRenewal s

end Sys2Proof.Machine


/-! # Every step keeps the latched copy lawful and a station outside the wall empty -/

namespace Sys2Proof.Machine

open Sys2Proof

/-! ### A frame start at a station outside the wall -/

theorem State.entries_eq_nil {s : State} (h : ∀ i, s.entryAt i = none) : s.entries = [] := by
  simp [State.entries, h]

/-- Work on the present entries does nothing where there is none. -/
theorem State.forEntries_of_none {s : State} (h : ∀ i, s.entryAt i = none) (f : Nat → EditEntry → State → State) :
    s.forEntries f = s :=
  State.forEntries_induction (P := fun t => t = s) rfl fun i e t ht he => by
    rw [ht, h i] at he
    cases he

theorem State.takeDue_of_none {s : State} (h : ∀ i, s.entryAt i = none) (due : EditEntry → Bool) : s.takeDue due = s := by
  simp [State.takeDue, State.entries_eq_nil h, sortBy]

theorem State.missCount_of_alone {s : State} (h : s.alone) : s.missCount = s :=
  State.missCount_induction (P := fun t => t = s) rfl fun n t ht => by
    subst ht
    unfold State.missAt
    split
    · next p hp =>
      obtain ⟨-, -, hat⟩ := State.peerAt_lt hp
      rw [h n p hat]
      rfl
    · rfl

theorem listenToAlign_receives (s : State) : s.listenToAlign.ctl.role.receives = true :=
  ((Stays.catchUpStart ((s.setRole .align).restartWait)).trans (Stays.oweBeacon _)) rfl

/-- A JOIN ends in LISTEN, and leaves the wall state, the Pixel Path and the edit table. -/
theorem State.join_rest (s : State) : s.join.ctl.role = .listen ∧ s.join.wall = s.wall ∧ s.join.pixel = s.pixel := by
  obtain ⟨ev, h⟩ := ((s.readied.setRole .listen).restartWait).loseLock_eq .free
  have hjoin : s.join = (((s.readied.setRole .listen).restartWait).loseLock .free).withdrawBeacon := rfl
  rw [hjoin, h]
  exact ⟨rfl, rfl, rfl⟩

theorem State.endResponder_eq (s : State) : ∃ c b, s.endResponder = { s with catchUp := c, bus := b } := by
  unfold State.endResponder
  dsimp only
  split
  · exact ⟨_, _, rfl⟩
  · split <;> exact ⟨_, _, rfl⟩
  · split <;> exact ⟨_, _, rfl⟩

/-- The hand-overs of a change out of MEMBER leave the role, the wall state and the Pixel Path (R122). -/
theorem State.leaveMember_rest (s : State) :
    s.leaveMember.ctl.role = s.ctl.role ∧ s.leaveMember.wall = s.wall ∧ s.leaveMember.pixel = s.pixel := by
  have hcease := EditWork.ceaseVoting s
  unfold State.leaveMember
  generalize s.ceaseVoting = u at hcease
  obtain ⟨c, b, hend⟩ := u.clearVerdicts.endResponder_eq
  rw [hend]
  have hrole : u.ctl.role = s.ctl.role := by rw [hcease.ctl]
  exact ⟨hrole, hcease.wall, hcease.pixel⟩

theorem State.abortRequester_rest (s : State) :
    s.abortRequester.ctl = s.ctl ∧ s.abortRequester.wall = s.wall ∧ s.abortRequester.pixel = s.pixel := by
  have hfrom : ∀ u v : State, EditWork u v → u.ctl = s.ctl → u.wall = s.wall → u.pixel = s.pixel →
      v.ctl = s.ctl ∧ v.wall = s.wall ∧ v.pixel = s.pixel := fun u v h hctl hwall hpixel =>
    ⟨h.ctl.trans hctl, h.wall.trans hwall, h.pixel.trans hpixel⟩
  exact hfrom _ _ (EditWork.clearDeferred _) rfl rfl rfl

/-- What a change to LEAVING leaves of the wall state, the role and the Pixel Path. -/
theorem State.startLeaving_rest (s : State) :
    s.startLeaving.ctl.role = .leaving ∧ s.startLeaving.wall = s.wall ∧ s.startLeaving.pixel = s.pixel := by
  have hmember : ∀ b : Bool, let u := if b then (s.setRole .leaving).leaveMember else s.setRole .leaving
      u.ctl.role = .leaving ∧ u.wall = s.wall ∧ u.pixel = s.pixel := by
    intro b
    cases b
    · exact ⟨rfl, rfl, rfl⟩
    · obtain ⟨hrole, hwall, hpixel⟩ := (s.setRole .leaving).leaveMember_rest
      exact ⟨hrole, hwall, hpixel⟩
  have hu := hmember (decide (s.ctl.role = .member))
  unfold State.startLeaving
  simp only [decide_eq_true_eq] at hu ⊢
  generalize (if s.ctl.role = .member then (s.setRole .leaving).leaveMember else s.setRole .leaving) = u at hu ⊢
  have hown := EditWork.leaveOwnEdits u
  generalize u.leaveOwnEdits = v at hown ⊢
  obtain ⟨hrole, hwall, hpixel⟩ := hu
  split
  · obtain ⟨hctl, habort, hpath⟩ := v.abortRequester_rest
    generalize v.abortRequester = w at hctl habort hpath
    have hleaving : w.ctl.role = .leaving := by rw [hctl, hown.ctl, hrole]
    exact ⟨hleaving, habort.trans (hown.wall.trans hwall), hpath.trans (hown.pixel.trans hpixel)⟩
  · have hleaving : v.ctl.role = .leaving := by rw [hown.ctl, hrole]
    exact ⟨hleaving, hown.wall.trans hwall, hown.pixel.trans hpixel⟩

/-- Every operation of a frame start keeps a station outside the wall empty: only the correction and the verdicts, which are
none already, are written there. -/
theorem FramePiece.outside {f : State → State} (hf : FramePiece f) {s : State} (hs : s.outsideLawful) :
    (f s).outsideLawful := by
  cases hr : s.ctl.role.receives with
  | true => exact outsideLawful_of_receives (hf.stays s hr)
  | false =>
    obtain ⟨hvalid, hfree, hentries, hrefusals, houtcomes, hpeers, hcatchUp, hbeacon, hfarewell, hattempt⟩ := hs hr
    have hoff : s.ctl.role = .offline ∨ s.ctl.role = .detached := by
      cases h : s.ctl.role <;> simp [h, Role.receives] at hr ⊢
    have hidle : s.catchUp.req.state = .idle := by rw [hcatchUp]; rfl
    have same : f s = s → (f s).outsideLawful := fun h => by rwa [h]
    cases hf with
    | timer =>
      have h : s.timerWork.1 = s.setCorrection 0 := by rcases hoff with h | h <;> simp only [State.timerWork, h]
      dsimp only
      rw [h]
      exact hs
    | renumbered => exact same (State.forEntries_of_none hentries _)
    | listenToAlign => exact outsideLawful_of_receives (listenToAlign_receives s)
    | renumberRole => exact same (by rcases hoff with h | h <;> simp only [State.renumberRole, h])
    | missCount => exact same (State.missCount_of_alone hpeers)
    | verdicts =>
      have h : s.verdictWork = s.clearVerdicts := by rcases hoff with h | h <;> simp [State.verdictWork, h]
      rw [h]
      intro _
      refine ⟨hvalid, hfree, hentries, hrefusals, houtcomes, fun n p hp => ?_, hcatchUp, hbeacon, hfarewell, hattempt⟩
      unfold State.clearVerdicts at hp
      rw [State.mapPeers_peers, mapTable_getElem?] at hp
      obtain ⟨q, hq, rfl⟩ := Option.map_eq_some_iff.1 hp
      rw [hpeers n q hq]
      rfl
    | promotion => exact same (by rcases hoff with h | h <;> simp [State.promotion, State.promotes, h])
    | wait => exact same (by rcases hoff with h | h <;> simp [State.waitWork, State.waitEvent, h])
    | dumpApply => exact same (State.dumpApply_of_not_pending (by rw [hidle]; simp))
    | applications =>
      refine same ?_
      unfold State.applications
      rw [State.takeDue_of_none hentries, State.takeDue_of_none hentries]
    | ownDeadlines => exact same (State.forEntries_of_none hentries _)
    | collectionDeadlines => exact same (State.forEntries_of_none hentries _)
    | queryWaits => exact same (State.forEntries_of_none hentries _)
    | goInDoubt => exact same (State.forEntries_of_none hentries _)
    | observerExpiry => exact same (State.forEntries_of_none hentries _)
    | catchUpWaits => exact same (by simp [State.catchUpWaits, State.askExpires, State.receiveExpires, State.responderLost,
        State.retryExpires, hidle])
    | beaconRenewal => exact same (by rcases hoff with h | h <;> simp [State.beaconRenewal, Role.transmits, h])

/-- The advance of the frame number keeps a station outside the wall empty. -/
theorem advanceFrame_outside {s : State} (hs : s.outsideLawful) : s.advanceFrame.outsideLawful := by
  unfold State.advanceFrame
  dsimp only
  split
  · intro hr
    obtain ⟨hvalid, hfree, hentries, hrefusals, houtcomes, hpeers, hcatchUp, hbeacon, hfarewell, hattempt⟩ := hs hr
    refine ⟨hvalid, hfree, hentries, hrefusals, houtcomes, fun n p hp => ?_, hcatchUp, hbeacon, hfarewell, fun a ha => ?_⟩
    · rw [State.adoptEffect_peers, State.adoptPeers, State.mapPeers_peers, mapTable_getElem?] at hp
      obtain ⟨q, hq, rfl⟩ := Option.map_eq_some_iff.1 hp
      rw [hpeers n q hq]
      rfl
    · obtain ⟨b, hb, rfl⟩ := Option.map_eq_some_iff.1 ha
      have hbu := hattempt b hb
      cases b with
      | transmitting => exact hbu
      | receiving => exact hbu
  · exact hs

theorem State.submitRefusal_member {s : State} {x : Submission} (h : s.submitRefusal x = none) : s.ctl.role = .member := by
  unfold State.submitRefusal at h
  split at h
  · cases h
  · next hrole => exact not_not.1 hrole

theorem State.createOwn_blocks (s : State) (x : Submission) :
    (s.createOwn x).ctl = s.ctl ∧ (s.createOwn x).wall = s.wall ∧ (s.createOwn x).pixel = s.pixel := by
  unfold State.createOwn
  split <;> exact ⟨rfl, rfl, rfl⟩

/-! ### The law of a station outside the wall -/

theorem Left.outside {s t : State} {r : Role} (h : Left s t r) : t.outsideLawful := fun _ =>
  ⟨by rw [h.wall], by rw [h.timer], h.entries, h.refusals, h.outcomes, fun n p hp => by
    rw [h.peers, mapTable_getElem?] at hp
    obtain ⟨q, -, rfl⟩ := Option.map_eq_some_iff.1 hp
    rfl, h.catchUp, h.beacon, by rw [h.ctl]; rfl, h.attempt⟩

theorem Act.outsideLawful {s t : State} (h : Act s t) (hs : s.outsideLawful) : t.outsideLawful := by
  cases h with
  | powerOn =>
    exact fun _ => ⟨rfl, rfl, State.entryAt_of_reset rfl, rfl, rfl, fun _ _ hp => reset_peers hp, rfl, rfl, rfl,
      fun a ha => by cases ha⟩
  | softReset =>
    refine fun _ => ⟨rfl, rfl, State.entryAt_of_reset rfl, rfl, rfl, fun n p hp => ?_, rfl, rfl, rfl, fun a ha => by cases ha⟩
    have hclear : s.softReset.peers = mapTable Peer.clear s.peers := rfl
    rw [hclear, mapTable_getElem?] at hp
    obtain ⟨q, -, rfl⟩ := Option.map_eq_some_iff.1 hp
    rfl
  | frameStart order =>
    exact State.frameStart_keeps (P := State.outsideLawful) order (advanceFrame_outside hs)
      (fun _ hf _ h => hf.outside h) fun _ h => h
  | move h =>
    cases h with
    | quiet h => exact h.outside hs
    | configure => exact hs
    | join =>
      refine outsideLawful_of_receives ?_
      rw [s.join_rest.1]
      rfl
    | goOffline => exact (State.goOffline_left _).outside
    | detach => exact (State.detach_left _ _).outside
    | startLeaving =>
      refine outsideLawful_of_receives ?_
      rw [s.startLeaving_rest.1]
      rfl
    | submit x h =>
      refine outsideLawful_of_receives ?_
      rw [s.createOwn_blocks x |>.1, State.submitRefusal_member h]
      rfl
    | @scan u v hrun h l x g =>
      have hscan : (u.scanTo l x).outsideLawful := h.outside hs
      exact g.outside hscan

/-! ### The law of the latched copy -/

theorem latchLawful_of_eq {s t : State} (hs : s.latchLawful) (hwall : t.wall = s.wall)
    (hrole : s.ctl.role.transmits = true → t.ctl.role.transmits = true) (hlatched : t.pixel.latched = s.pixel.latched)
    (hdark : s.pixel.latched.showing = false → s.pixel.rgb = Colour.black → t.pixel.rgb = Colour.black) :
    t.latchLawful := by
  obtain ⟨hpalette, hx, hy, hlevel, hblank, hshow, hblack⟩ := hs
  unfold State.latchLawful
  rw [hwall, hlatched]
  exact ⟨hpalette, hx, hy, hlevel, hblank, fun h => ⟨(hshow h).1, hrole (hshow h).2⟩, fun h => hdark h (hblack h)⟩

theorem atPosition_dark {p : PixelPath} (h : p.rgb = Colour.black) (stays : Bool) :
    (p.atPosition stays).rgb = Colour.black := by
  unfold PixelPath.atPosition
  cases stays <;> simp [h]

/-- Where nothing is shown the panel is dark, and the latched values are the live ones. -/
theorem latchLawful_of_dark {t : State} (hlatched : t.pixel.latched =
      { palette := t.wall.palette, panX := t.wall.panX, panY := t.wall.panY, level := t.wall.level,
        blank := t.wall.blank, showing := false }) (hdark : t.pixel.rgb = Colour.black) : t.latchLawful := by
  unfold State.latchLawful
  rw [hlatched]
  exact ⟨rfl, rfl, rfl, rfl, rfl, by simp, fun _ => hdark⟩

theorem Left.latchLawful {s t : State} {r : Role} (h : Left s t r) (hs : s.latchLawful) : t.latchLawful := by
  obtain ⟨hpalette, hx, hy, hlevel, hblank, -⟩ := hs
  unfold State.latchLawful
  rw [h.wall, h.pixel]
  exact ⟨hpalette, hx, hy, hlevel, hblank, by simp, fun _ => rfl⟩

/-- A frame start ends in a latch, over a panel that is dark until the next active pixel. -/
theorem latchFrame_latchLawful (s : State) : s.latchFrame.latchLawful := by
  obtain ⟨hlatched, -, hrgb⟩ :=
    PixelPath.reissue_latched { s.pixel.atPosition false with latched := s.latch, underrun := false } s.cfg.w
  unfold State.latchLawful
  rw [State.latchFrame_pixel, hlatched, hrgb]
  refine ⟨rfl, rfl, rfl, rfl, rfl, fun h => ?_, fun _ => rfl⟩
  have hshow : s.showDecision = true := h
  simp only [State.showDecision, Bool.and_eq_true] at hshow
  exact ⟨hshow.2, hshow.1⟩

theorem Calm.latchLawful {s t : State} (h : Calm s t) (hs : s.latchLawful) : t.latchLawful :=
  latchLawful_of_eq hs h.wall (fun ht => by rwa [h.role]) h.latched h.dark

theorem Act.latchLawful {s t : State} (h : Act s t) (hs : s.latchLawful) : t.latchLawful := by
  cases h with
  | powerOn => exact latchLawful_of_dark rfl rfl
  | softReset => exact latchLawful_of_dark rfl rfl
  | frameStart order => exact latchFrame_latchLawful _
  | move h =>
    cases h with
    | quiet h => exact h.toCalm.latchLawful hs
    | configure => exact hs
    | join hrole =>
      obtain ⟨-, hwall, hpixel⟩ := s.join_rest
      refine latchLawful_of_eq hs hwall (fun ht => ?_) (by rw [hpixel]) fun _ h => by rw [hpixel, h]
      rcases hrole with h | h <;> simp [h, Role.transmits] at ht
    | goOffline h => exact (State.goOffline_left _).latchLawful (h.toCalm.latchLawful hs)
    | detach h hr r => exact (State.detach_left _ r).latchLawful (h.toCalm.latchLawful hs)
    | startLeaving =>
      obtain ⟨hrole, hwall, hpixel⟩ := s.startLeaving_rest
      exact latchLawful_of_eq hs hwall (fun _ => by rw [hrole]; rfl) (by rw [hpixel]) fun _ h => by rw [hpixel, h]
    | submit x =>
      obtain ⟨hctl, hwall, hpixel⟩ := s.createOwn_blocks x
      exact latchLawful_of_eq hs hwall (fun ht => by rwa [hctl]) (by rw [hpixel]) fun _ h => by rw [hpixel, h]
    | @scan u v hrun h l x g =>
      have hu := h.toCalm.latchLawful hs
      have hscan : (u.scanTo l x).latchLawful := latchLawful_of_eq hu rfl id rfl fun _ h => atPosition_dark h _
      exact g.toCalm.latchLawful hscan

end Sys2Proof.Machine

namespace Sys2Proof

open Sys2Proof.Machine

/-- Settles O59: every frame start ends in a latch, and whatever takes the state or the role away darkens the output at once. -/
theorem stepsKeepTheLatchedCopyLawful : Obligations.StepsKeepTheLatchedCopyLawful :=
  fun _ _ hs h => step_keeps (P := State.latchLawful) (fun _ _ _ _ => id) Act.latchLawful h hs

/-- Settles O60: an entry to OFFLINE or DETACHED empties the station, and what a station that does not receive can do leaves it
empty. -/
theorem stepsKeepAStationOutsideTheWallEmpty : Obligations.StepsKeepAStationOutsideTheWallEmpty :=
  fun _ _ hs h => step_keeps (P := State.outsideLawful) (fun _ _ _ _ => id) Act.outsideLawful h hs

end Sys2Proof


/-! # Steps, resets and what the commands leave as it is -/

namespace Sys2Proof.Machine

open Sys2Proof

/-- No row of the table stops or is refused. -/
theorem exec_next (c : Instr) (s : State) : ∃ t, exec c s = .next t := by
  cases c
  case fetchIssue =>
    simp only [exec, execFetchIssue]
    split <;> exact ⟨_, rfl⟩
  case fetchCut =>
    simp only [exec, execFetchCut]
    split <;> exact ⟨_, rfl⟩
  case transactionSelect =>
    simp only [exec, execTransactionSelect]
    split <;> exact ⟨_, rfl⟩
  all_goals exact ⟨_, rfl⟩

theorem State.createOwn_free (s : State) (x : Submission) :
    (s.createOwn x).pending = s.pending ∧ (s.createOwn x).freeCount = s.freeCount := by
  unfold State.createOwn
  split <;> exact ⟨rfl, rfl⟩

theorem State.advanceFrame_free (s : State) :
    s.advanceFrame.pending = s.pending ∧ s.advanceFrame.freeCount = s.freeCount := by
  unfold State.advanceFrame
  dsimp only
  split <;> exact ⟨rfl, rfl⟩

/-- The queue of commands and the counter of free choices are the model's own (log 4, log 26). -/
theorem Act.free {s t : State} (h : Act s t) : t.pending = s.pending ∧ t.freeCount = s.freeCount := by
  have keeps : ∀ {u v : State}, Keeps u v → v.pending = u.pending ∧ v.freeCount = u.freeCount := fun h =>
    ⟨h.pending, h.freeCount⟩
  cases h with
  | powerOn => exact ⟨rfl, rfl⟩
  | softReset => exact ⟨rfl, rfl⟩
  | frameStart order =>
    have hadvance := s.advanceFrame_free
    have hframe := keeps (Keeps.frameStart s order)
    exact ⟨hframe.1.trans hadvance.1, hframe.2.trans hadvance.2⟩
  | move h =>
    cases h with
    | quiet h => exact keeps h.keeps
    | configure => exact ⟨rfl, rfl⟩
    | join =>
      have hjoin := keeps (Keeps.join s)
      exact ⟨hjoin.1, hjoin.2⟩
    | goOffline h => exact keeps (h.keeps.trans (Keeps.goOffline _))
    | detach h hr r => exact keeps (h.keeps.trans (Keeps.detach _ r))
    | startLeaving => exact keeps (Keeps.startLeaving s)
    | submit x => exact s.createOwn_free x
    | @scan u v hrun h l x g =>
      have hu := keeps h.keeps
      have hv := keeps g.keeps
      exact ⟨hv.1.trans hu.1, hv.2.trans hu.2⟩

/-- The values of the wall state stay, and state-valid stays or is cleared. -/
def WallState.kept (w v : WallState) : Prop :=
  v.palette = w.palette ∧ v.panX = w.panX ∧ v.panY = w.panY ∧ v.level = w.level ∧ v.blank = w.blank
  ∧ v.version = w.version ∧ (v.valid = true → w.valid = true)

theorem WallState.kept_of_eq {w v : WallState} (h : v = w) : w.kept v := by
  subst h
  exact ⟨rfl, rfl, rfl, rfl, rfl, rfl, id⟩

theorem Left.wallKept {s t : State} {r : Role} (h : Left s t r) : s.wall.kept t.wall := by
  rw [h.wall]
  exact ⟨rfl, rfl, rfl, rfl, rfl, rfl, by simp⟩

theorem Move.wall {s t : State} (h : Move s t) : s.wall.kept t.wall := by
  cases h with
  | quiet h => exact WallState.kept_of_eq h.wall
  | configure => exact WallState.kept_of_eq rfl
  | join => exact WallState.kept_of_eq s.join_rest.2.1
  | @goOffline u h =>
    rw [← h.wall]
    exact u.goOffline_left.wallKept
  | @detach u h hr r =>
    rw [← h.wall]
    exact (u.detach_left r).wallKept
  | startLeaving => exact WallState.kept_of_eq s.startLeaving_rest.2.1
  | submit x => exact WallState.kept_of_eq (s.createOwn_blocks x).2.1
  | @scan u v hrun h l x g => exact WallState.kept_of_eq (g.wall.trans h.wall)

/-- A row that brings a message of an edit is an arrival whose work is the Edit Unit's. -/
theorem editArrival_work {c : Instr} (hc : c.isEditArrival = true) :
    ∃ f : State → State, (∀ u, EditWork u (f u)) ∧ ∀ s, exec c s = .next (s.arrive f) := by
  cases c <;> cases hc
  case proposeArrival => exact ⟨_, fun u => EditWork.proposeArrives u _ _ _ _, fun _ => rfl⟩
  case dataArrival => exact ⟨_, fun u => EditWork.dataArrives u _ _ _ _, fun _ => rfl⟩
  case acceptArrival => exact ⟨_, fun u => EditWork.acceptArrives u _ _, fun _ => rfl⟩
  case refuseArrival => exact ⟨_, fun u => EditWork.refuseArrives u _ _, fun _ => rfl⟩
  case takeArrival => exact ⟨_, fun u => EditWork.takeArrives u _ _, fun _ => rfl⟩
  case dropArrival => exact ⟨_, fun u => EditWork.dropArrives u _ _, fun _ => rfl⟩
  case queryArrival => exact ⟨_, fun u => EditWork.queryArrives u _ _, fun _ => rfl⟩
  case outcomeArrival => exact ⟨_, fun u => EditWork.outcomeArrives u _ _ _, fun _ => rfl⟩

/-- Work of the Edit Unit where no attempt is in progress leaves the whole Bus Interface. -/
theorem EditWork.bus_of_idle {s t : State} (h : EditWork s t) (hidle : s.bus.attempt = none) : t.bus = s.bus := by
  have hbus := h.bus
  rw [h.idle hidle, ← hidle] at hbus
  exact hbus


end Sys2Proof.Machine

namespace Sys2Proof

open Sys2Proof.Machine

/-- Settles O1, by definition. -/
theorem stepRunsTheFrontCommand : Obligations.StepRunsTheFrontCommand := fun _ _ _ => rfl

/-- Settles O2: no row is refused, and the model's own items are in no act. -/
theorem everyCommandAnswersANextState : Obligations.EveryCommandAnswersANextState := by
  intro c s
  obtain ⟨t, ht⟩ := exec_next c s
  obtain ⟨u, p, hu, rfl⟩ := exec_act ht
  exact ⟨_, ht, hu.free⟩

/-- Settles O16: a row that is neither a reset nor a frame start is a move. -/
theorem wallValuesChangeOnlyAtFrameStarts : Obligations.WallValuesChangeOnlyAtFrameStarts := by
  intro c s t hreset hframe h
  obtain ⟨u, p, hu, rfl⟩ := exec_move hreset hframe h
  exact hu.wall

/-- Settles O37: the reception has ended before the message arrives, so no attempt is withdrawn. -/
theorem editMessagesTouchOnlyTheEditUnit : Obligations.EditMessagesTouchOnlyTheEditUnit := by
  intro c s t hc hs h
  obtain ⟨f, hf, hexec⟩ := editArrival_work hc
  rw [hexec, State.arrive_of_hears f hs] at h
  cases h
  have hwork := hf s.goodReception
  exact ⟨hwork.same, hwork.bus_of_idle rfl, hwork.sequence⟩

/-- Settles O55, from the laws of the reset acts. -/
theorem resetStateKeepsEveryLaw : Obligations.ResetStateKeepsEveryLaw :=
  ⟨withinCapacity_of_empty rfl rfl, tableLawful_of_empty rfl, fun _ _ hp => clear_lawful (reset_peers hp),
    reset_timerLawful.1, reset_lockLawful rfl rfl, reset_timerLawful.2, latchLawful_of_dark rfl rfl,
    fun _ => ⟨rfl, rfl, State.entryAt_of_reset rfl, rfl, rfl, fun _ _ hp => reset_peers hp, rfl, rfl, rfl,
      fun a ha => by cases ha⟩⟩

end Sys2Proof


/-! # Resets, transactions, JOIN, LEAVE and the detachment by a beacon -/

namespace Sys2Proof.Machine

open Sys2Proof

/-- At a station outside the wall nothing arrives. -/
theorem State.arrive_of_deaf {s : State} (h : s.ctl.role.receives = false) (f : State → State) : s.arrive f = s := by
  simp only [State.arrive, State.reception_of_deaf h]

theorem State.offered_of_silent {s : State} (h : s.ctl.role.transmits = false) : s.offered = none := by
  cases hoff : s.offered with
  | none => rfl
  | some x =>
    obtain ⟨ho, -⟩ := (State.offered_eq_some hoff).of_filter
    unfold State.offerable at ho
    rw [h] at ho
    cases ho

theorem State.entryAt_decideDrop (s : State) (i j : Nat) (e : EditEntry) (r : Reason) (st : Option Station) :
    (s.decideDrop i e r st).entryAt j = if i = j ∧ i < 16 then none else s.entryAt j := by
  obtain ⟨b, h⟩ := s.recordOutcome_eq ⟨e.id, false, some r, if e.proposed = some true then some ⟨.drop, 0⟩ else none⟩
  unfold State.decideDrop
  rw [State.entryAt_dropEntry, h]
  rfl

/-- At a LEAVE the undecided own entries go, and the others stay (R70). -/
theorem State.leaveOwnEdits_entryAt (s : State) (k : Nat) : s.leaveOwnEdits.entryAt k = (s.entryAt k).bind fun e =>
    if e.holding = .own ∧ e.undecided then none else some e := by
  refine State.entryAt_forEntries_bind (P := fun _ => True) (g := fun _ e => if e.holding = .own ∧ e.undecided then none else some e)
    trivial (fun _ _ _ => id) (fun i e t j hj => ?_) (fun i e t _ he => ?_) k
  · split
    · split
      · rw [State.entryAt_decideDrop, if_neg fun hc => hj hc.1.symm]
      · exact t.entryAt_dropEntry_of_ne hj ..
    · rfl
  · split
    · split
      · rw [State.entryAt_decideDrop, if_pos ⟨rfl, State.entryAt_lt he⟩]
      · exact t.entryAt_dropEntry_self ..
    · exact he

/-- An abort clears the deferred field of every entry (R139). -/
theorem State.clearDeferred_entryAt (s : State) (k : Nat) :
    s.clearDeferred.entryAt k = (s.entryAt k).map fun e => { e with deferred := false } := by
  have h := State.entryAt_forEntries_bind (P := fun _ => True) (s := s)
    (f := fun i e s => if e.deferred then s.putEntry i (some { e with deferred := false }) else s)
    (g := fun _ e => some { e with deferred := false }) trivial (fun _ _ _ => id) (fun i e t j hj => ?_)
    (fun i e t _ he => ?_) k
  · exact h.trans (by cases s.entryAt k <;> rfl)
  · split
    · rw [State.entryAt_putEntry, if_neg fun hc => hj hc.1.symm]
    · rfl
  · split
    · rw [State.entryAt_putEntry, if_pos ⟨rfl, State.entryAt_lt he⟩]
    · next hd =>
      have hsame : { e with deferred := false } = e := by
        cases e
        simp_all
      rw [hsame, he]

theorem State.abortRequester_entryAt (s : State) (k : Nat) :
    s.abortRequester.entryAt k = (s.entryAt k).map fun e => { e with deferred := false } :=
  State.clearDeferred_entryAt _ k

end Sys2Proof.Machine

namespace Sys2Proof

open Sys2Proof.Machine

/-- Settles O31. -/
theorem rolesOutsideTheWallHearAndSendNothing : Obligations.RolesOutsideTheWallHearAndSendNothing := by
  intro s
  refine ⟨fun hr c hc => ?_, fun ht rivals => ?_⟩
  · have hnone := State.reception_of_deaf hr
    have hdeaf := State.arrive_of_deaf hr
    cases c
    case receptionStart => simp [exec, execReceptionStart, hr]
    case corruptReception => simp [exec, execCorruptReception, hnone]
    case voidReception => simp [exec, execVoidReception, hnone]
    case idleGap => simp [exec, execIdleGap, hr]
    case beaconArrival => simp [exec, execBeaconArrival, hnone]
    case farewellArrival | proposeArrival | dataArrival | acceptArrival | refuseArrival | takeArrival | dropArrival
        | queryArrival | outcomeArrival | dumpRequestArrival | dumpBeginArrival | dumpDataArrival | dumpEndArrival
        | messageDiscarded => exact congrArg Host.Outcome.next (hdeaf _)
    all_goals cases hc
  · have hoff := State.offered_of_silent ht
    have h : s.startAttempt rivals = s := by
      unfold State.startAttempt
      rw [hoff]
      cases s.bus.attempt <;> rfl
    exact congrArg Host.Outcome.next h

/-- Settles O4. -/
theorem resetsLoadTheResetValues : Obligations.ResetsLoadTheResetValues := by
  refine ⟨fun i s hi => ?_, fun f s hread hphase => ?_⟩
  · have hport : s.powerOn.port = ⟨if s.port.phase = .idle then .idle else .held, none⟩ := by
      cases h : s.port.phase <;> simp [State.powerOn, PortPhase.afterReset, h]
    rcases hi with rfl | rfl
    · exact ⟨s.powerOn, rfl, rfl, rfl, rfl, rfl, rfl, rfl, rfl, rfl, rfl, rfl, hport⟩
    · exact ⟨s.powerOn, rfl, rfl, rfl, rfl, rfl, rfl, rfl, rfl, rfl, rfl, rfl, hport⟩
  · exact congrArg Host.Outcome.next (State.transact_command (s' := s.softReset) (resp := done []) hphase hread rfl)

/-- Settles O5: the values are read off the reset state, its tables index by index. -/
theorem resetStateHoldsTheTabledValues : Obligations.ResetStateHoldsTheTabledValues := by
  have hentries : State.reset.entries = [] := State.entries_eq_nil (State.entryAt_of_reset rfl)
  refine ⟨fun i hi => ?_, rfl, rfl, rfl, rfl, rfl, rfl, State.entryAt_of_reset rfl, ?_, rfl, rfl, rfl, fun n p hp => ?_, rfl, rfl,
    rfl, rfl, rfl, rfl, rfl, rfl, fun i hi => ?_, rfl, rfl, rfl, rfl, rfl, rfl, rfl, rfl, rfl, rfl, rfl, rfl, rfl, rfl, rfl, rfl,
    rfl, rfl, rfl, rfl⟩
  · simp [State.reset, WallState.default, hi, greyRamp]
  · simp [State.poolFree, hentries]
  · rw [reset_peers hp]
    exact ⟨rfl, rfl, rfl, rfl, rfl, rfl, rfl⟩
  · simp [State.reset, CatchUp.reset, emptyBuffer, hi]

end Sys2Proof


/-! # JOIN, LEAVE, the detachment by a beacon, and transactions -/

namespace Sys2Proof.Machine

open Sys2Proof

/-! ### JOIN -/

/-- A command frame of the row is carried out in the command phase. -/
theorem exec_join {f : List Byte} {s : State} (hread : readCommandFrame f = some .join) (hphase : s.port.phase = .command) :
    exec (.join f) s = .next { s.joinCommand.1 with port := ⟨.response, some s.joinCommand.2⟩ } :=
  congrArg Host.Outcome.next (State.transact_command hphase hread rfl)

theorem State.joinCommand_of_outside {s : State} (h : s.ctl.role = .offline ∨ s.ctl.role = .detached) :
    s.joinCommand = if s.cfg.valid then (s.join, done []) else (s, refused .invalid) := by
  rcases h with h | h <;> simp only [State.joinCommand, h]

theorem State.joinCommand_of_inside {s : State} (hoff : s.ctl.role ≠ .offline) (hdet : s.ctl.role ≠ .detached) :
    s.joinCommand = (s, refused .state) := by
  unfold State.joinCommand
  split
  · next h => exact absurd h hoff
  · next h => exact absurd h hdet
  all_goals rfl

theorem Timer.start_eq (t : Timer) : t.start = if t.running then t
    else { t with running := true, line := 0, pixel := 0, frame := 0, correction := 0 } := rfl

theorem Timer.start_lock (t : Timer) : t.start.lock = t.lock := by
  rw [Timer.start_eq]
  split <;> rfl

/-- What a JOIN leaves: the record frozen, the timer running, the lock FREE, and no beacon owed. -/
theorem State.join_eq (s : State) : ∃ ev, s.join = { s with
    cfg := { s.cfg with frozen := true }
    timer := { s.timer.start with lock := .free, lockCount := 0 }
    ctl := { s.ctl with role := .listen, foundingWait := 0 }
    bus := { ({ s.bus with gapSeen := false }.withdraw .beacon) with beacon := none, renewal := false }
    events := ev }
    ∧ (s.timer.lock ≠ .locked →
      ev = joinQueue s.events ⟨.roleChanged, s.timer.start.frame, none, none, none, some .listen, false⟩) := by
  have hjoin : s.join = (((s.readied.setRole .listen).restartWait).loseLock .free).withdrawBeacon := rfl
  rw [hjoin]
  unfold State.loseLock
  dsimp only
  split
  · next hlocked =>
    have hlock : s.timer.lock = .locked := (Timer.start_lock s.timer).symm.trans hlocked
    exact ⟨_, rfl, fun h => absurd hlock h⟩
  · exact ⟨_, rfl, fun _ => rfl⟩

/-! ### LEAVE -/

theorem exec_leave {f : List Byte} {s : State} (hread : readCommandFrame f = some .leave) (hphase : s.port.phase = .command) :
    exec (.leave f) s = .next { s.leaveCommand.1 with port := ⟨.response, some s.leaveCommand.2⟩ } :=
  congrArg Host.Outcome.next (State.transact_command hphase hread rfl)

/-- At a LEAVE the requester comes to rest, and the entries lose at most their deferred mark (R127, R139). -/
theorem State.settleRequester (s : State) : let t := if s.catchingUp then s.abortRequester else s
    t.catchUp.req.state = .idle ∧ t.timer = s.timer
    ∧ ∀ i e, t.entryAt i = some e → ∃ e', s.entryAt i = some e' ∧ e.holding = e'.holding ∧ e.state = e'.state := by
  dsimp only
  split
  · have hwork : ∀ u v : State, EditWork u v → u.catchUp.req.state = .idle → u.timer = s.timer →
        v.catchUp.req.state = .idle ∧ v.timer = s.timer := fun u v h hr ht => ⟨h.reqState.trans hr, h.timer.trans ht⟩
    have habort : s.abortRequester.catchUp.req.state = .idle ∧ s.abortRequester.timer = s.timer :=
      hwork _ _ (EditWork.clearDeferred _) rfl rfl
    obtain ⟨hidle, htimer⟩ := habort
    refine ⟨hidle, htimer, fun i e he => ?_⟩
    rw [State.abortRequester_entryAt] at he
    obtain ⟨e', he', rfl⟩ := Option.map_eq_some_iff.1 he
    exact ⟨e', he', rfl, rfl⟩
  · next h => exact ⟨by simpa [State.catchingUp] using h, rfl, fun i e he => ⟨e, he, rfl, rfl⟩⟩

theorem State.leaveMember_timer (s : State) : s.leaveMember.timer = s.timer := by
  have hcease := EditWork.ceaseVoting s
  unfold State.leaveMember
  generalize s.ceaseVoting = u at hcease
  obtain ⟨c, b, hend⟩ := u.clearVerdicts.endResponder_eq
  rw [hend]
  exact hcease.timer

/-- What a change to LEAVING leaves: a FAREWELL owed, the requester at rest, no undecided own edit (R127). -/
theorem State.startLeaving_spec (s : State) :
    s.startLeaving.ctl.farewell = some ⟨.farewell, 0⟩ ∧ s.startLeaving.catchUp.req.state = .idle
    ∧ s.startLeaving.timer = s.timer
    ∧ ∀ i e, s.startLeaving.entryAt i = some e → e.holding = .own → e.state ≠ .sending ∧ e.state ≠ .awaiting := by
  have hmember : ∀ b : Bool, (if b then (s.setRole .leaving).leaveMember else s.setRole .leaving).timer = s.timer := by
    intro b
    cases b
    · rfl
    · exact State.leaveMember_timer _
  have hu := hmember (decide (s.ctl.role = .member))
  unfold State.startLeaving
  simp only [decide_eq_true_eq] at hu ⊢
  generalize (if s.ctl.role = .member then (s.setRole .leaving).leaveMember else s.setRole .leaving) = u at hu ⊢
  have hown := (EditWork.leaveOwnEdits u).timer
  have hentries := u.leaveOwnEdits_entryAt
  generalize u.leaveOwnEdits = v at hown hentries ⊢
  obtain ⟨hidle, htimer, hkept⟩ := v.settleRequester
  generalize (if v.catchingUp then v.abortRequester else v) = w at hidle htimer hkept ⊢
  refine ⟨trivial, hidle, htimer.trans (hown.trans hu), fun i e he hholding => ?_⟩
  obtain ⟨e', he', hh, hst⟩ := hkept i e he
  rw [hentries] at he'
  obtain ⟨a, -, ha⟩ := Option.bind_eq_some_iff.1 he'
  split at ha
  · cases ha
  · next hund =>
    cases ha
    rw [hst]
    simpa [EditEntry.undecided, ← hh, hholding] using hund

/-! ### Detachment -/

theorem forEntries_events {P : List Event → Prop} {f : Nat → EditEntry → State → State}
    (hf : ∀ i e t, P t.events → P (f i e t).events) {s : State} (h : P s.events) : P (s.forEntries f).events :=
  State.forEntries_induction (P := fun t => P t.events) h fun i e t ht _ => hf i e t ht

theorem foldl_withdraw_events {α : Type} (src : α → Source) (xs : List α) (s : State) :
    (xs.foldl (fun s x => s.withdraw (src x)) s).events = s.events := by
  induction xs generalizing s with
  | nil => rfl
  | cons x xs ih => exact ih _

/-- What every event that joins the queue keeps, the work of an entry to OFFLINE or DETACHED keeps. -/
theorem State.emptyBlocks_events {P : List Event → Prop} (hP : ∀ q e, P q → P (joinQueue q e)) {s : State} (why : Reason)
    (h : P s.events) : P (s.emptyBlocks why).events := by
  have hfree : P s.clearValid.freeLock.events := by
    unfold State.freeLock State.loseLock
    dsimp only
    split
    · exact hP _ _ h
    · exact h
  have hdrop : P (s.clearValid.freeLock.dropAll why).events := forEntries_events (fun _ _ _ ht => hP _ _ ht) hfree
  unfold State.emptyBlocks State.emptyEdits
  generalize s.clearValid.freeLock.dropAll why = u at hdrop
  dsimp only
  rw [foldl_withdraw_events fun o : OutcomeEntry => Source.outcome o.id]
  exact hdrop

/-- A queue that holds a, an event of a kind and a role, and what followed. -/
def heldBefore (a : List Event) (kind : EventKind) (role : Option Role) (q : List Event) : Prop :=
  ∃ x rest, q = a ++ x :: rest ∧ x.kind = kind ∧ x.role = role

/-- Events that join later, and the overrun mark of the last one, leave what was held before. -/
theorem heldBefore_joinQueue {a q : List Event} {kind : EventKind} {role : Option Role} (e : Event)
    (h : heldBefore a kind role q) : heldBefore a kind role (joinQueue q e) := by
  obtain ⟨x, rest, rfl, hkind, hrole⟩ := h
  unfold joinQueue
  split
  · exact ⟨x, rest ++ [e], by simp, hkind, hrole⟩
  · rcases List.eq_nil_or_concat rest with rfl | ⟨init, last, rfl⟩
    · exact ⟨{ x with overrun := true }, [], by rw [markTail_append], hkind, hrole⟩
    · refine ⟨x, init ++ [{ last with overrun := true }], ?_, hkind, hrole⟩
      have hassoc : a ++ x :: (init ++ [last]) = (a ++ x :: init) ++ [last] := by simp
      rw [List.concat_eq_append, hassoc, markTail_append]
      simp

/-- A detachment posts DETACHED, then ROLE-CHANGED (R129, R130). -/
theorem State.detach_events (s : State) (why : Reason) (hroom : s.events.length + 2 ≤ 32) :
    heldBefore (s.events ++ [⟨.detached, s.timer.frame, none, none, some why, none, false⟩]) .roleChanged (some .detached)
      (s.detach why).events := by
  refine State.emptyBlocks_events (fun q e => heldBefore_joinQueue e) .detached ?_
  have hfirst : joinQueue s.events ⟨.detached, s.timer.frame, none, none, some why, none, false⟩
      = s.events ++ [⟨.detached, s.timer.frame, none, none, some why, none, false⟩] := joinQueue_of_lt _ (by omega)
  refine ⟨⟨.roleChanged, s.timer.frame, none, none, none, some .detached, false⟩, [], ?_, rfl, rfl⟩
  have hlength : (joinQueue s.events ⟨.detached, s.timer.frame, none, none, some why, none, false⟩).length < 32 := by
    rw [hfirst]
    simp
    omega
  rw [← hfirst]
  exact joinQueue_of_lt _ hlength

theorem exec_beaconArrival_of_hears {s : State} (h : s.hears) (sender : Station) (b : Beacon) :
    ∃ time usable, exec (.beaconArrival sender b) s = .next (s.goodReception.receiveBeacon sender b time usable) := by
  obtain ⟨hr, time, usable, ha⟩ := h
  exact ⟨time, usable, by simp only [exec, execBeaconArrival, State.reception_of_attempt hr ha]⟩

end Sys2Proof.Machine

namespace Sys2Proof

open Sys2Proof.Machine

/-- Settles O11. -/
theorem joinEntersListenWithAFrozenRecord : Obligations.JoinEntersListenWithAFrozenRecord := by
  intro f s hread hphase
  rw [exec_join hread hphase]
  refine ⟨fun hoff hdet => ?_, fun hrole hinvalid => ?_, fun hrole hvalid => ?_⟩
  · rw [State.joinCommand_of_inside hoff hdet]
    rfl
  · rw [State.joinCommand_of_outside hrole, hinvalid]
    rfl
  · rw [State.joinCommand_of_outside hrole, if_pos hvalid]
    obtain ⟨ev, heq, hev⟩ := s.join_eq
    refine ⟨_, rfl, ?_⟩
    rw [heq]
    have hgap : ({ s.bus with gapSeen := false }.withdraw .beacon).gapSeen = false := by rw [Bus.withdraw_eq]
    exact ⟨rfl, rfl, fun h => by simp [Timer.start, h], fun h => by simp [Timer.start, h], hev, rfl, rfl, rfl, rfl, rfl, hgap,
      rfl, rfl, rfl⟩

/-- Settles O12. -/
theorem leaveGoesOfflineOrToLeaving : Obligations.LeaveGoesOfflineOrToLeaving := by
  intro f s hread hphase
  rw [exec_leave hread hphase]
  refine ⟨fun hrole => ?_, fun hrole => ?_, fun hrole => ?_⟩
  · rcases hrole with h | h | h <;> simp only [State.leaveCommand, h] <;> rfl
  · have hleft := s.goOffline_left
    have hkeeps := Keeps.goOffline s
    have hcommand : s.leaveCommand = (s.goOffline, done []) := by simp only [State.leaveCommand, hrole]
    rw [hcommand]
    generalize s.goOffline = u at hleft hkeeps
    have hrole : u.ctl.role = .offline := by rw [hleft.ctl]
    have htrim : u.timer.trim = s.timer.trim := by rw [hleft.timer]
    obtain ⟨hrunning, hframe, -⟩ := hkeeps.clock
    exact ⟨_, rfl, hrole, hleft.wall, hleft.entries, hkeeps.sequence, hrunning, hframe, htrim, hkeeps.cfg, rfl⟩
  · obtain ⟨hleaving, hwall, -⟩ := s.startLeaving_rest
    obtain ⟨hfarewell, hidle, htimer, hdecided⟩ := s.startLeaving_spec
    have hcommand : s.leaveCommand = (s.startLeaving, done []) := by
      rcases hrole with h | h <;> simp only [State.leaveCommand, h]
    have hcfg := (Keeps.startLeaving s).cfg
    rw [hcommand]
    generalize s.startLeaving = u at hleaving hwall hfarewell hidle htimer hdecided hcfg
    exact ⟨_, rfl, hleaving, hfarewell, hdecided, hidle, hwall, htimer, hcfg, rfl⟩

/-- Settles O32: the first two events of a detachment stay at their places in the queue whatever follows. -/
theorem ownNumberInABeaconDetaches : Obligations.OwnNumberInABeaconDetaches := by
  intro b s hs hroom
  obtain ⟨time, usable, hexec⟩ := exec_beaconArrival_of_hears hs s.cfg.station b
  have hown : s.goodReception.receiveBeacon s.cfg.station b time usable = s.goodReception.detach .duplicate := by
    rw [State.receiveBeacon, if_pos]
    rfl
  have hleft := s.goodReception.detach_left .duplicate
  obtain ⟨x, rest, hevents, hkind, hrole⟩ := s.goodReception.detach_events .duplicate hroom
  have hdetached : (s.goodReception.detach .duplicate).ctl.role = .detached := by rw [hleft.ctl]
  have hlen : s.events.length + 1
      = (s.events ++ [(⟨.detached, s.timer.frame, none, none, some .duplicate, none, false⟩ : Event)]).length := by simp
  refine ⟨s.goodReception.detach .duplicate, x :: rest, by rw [hexec, hown], hdetached, hleft.wall,
    hleft.peers, hleft.entries, ?_, ?_, by simp [hkind, hrole]⟩
  · rw [hevents, hlen]
    exact List.take_left
  · rw [hevents, hlen]
    exact List.drop_left

/-- Settles O6. -/
theorem transactionsFollowThePhaseOfThePort : Obligations.TransactionsFollowThePhaseOfThePort := by
  refine ⟨fun s => ⟨fun h => ?_, fun h => ?_, rfl, rfl⟩, fun i f s hi hphase => ?_, fun f s act hphase => ?_,
    fun s k => ⟨fun h => ?_, fun r h hr => ⟨fun hk => ?_, fun hk => ?_⟩, fun h => ?_⟩, fun r => ?_⟩
  · simp only [exec, execTransactionSelect, h]
  · cases hp : s.port.phase <;> simp_all [exec, execTransactionSelect]
  · obtain ⟨act, hexec⟩ := exec_controlFrame s hi
    rw [hexec, State.transact_ignored hphase]
  · simp only [State.transact, hphase]
    rfl
  · simp only [State.dataOut, h]
  · simp [State.dataOut, h, hr, hk]
  · simp [State.dataOut, h, hr, hk]
  · rcases h with h | h <;> simp only [State.dataOut, h]
  · refine ⟨Config.responseCodeByte r.code :: (r.reason.map ResponseReason.code).getD 0
      :: (bytes2 (BitVec.ofNat 16 r.payload.length) ++ r.payload), rfl, ?_⟩
    rcases hr : r.reason with _ | reason
    · rfl
    · cases reason <;> rfl

end Sys2Proof


/-! # Frames and messages are read back (R161, R172, R185, R186) -/

namespace Sys2Proof

open Sys2Proof.Machine

/-! ### Command frames -/

theorem readSubmitPalette_params (lead start : Byte) (count : Half) {records : List Colour}
    (h : 1 ≤ records.length ∧ records.length ≤ 256) :
    readSubmitPalette (lead :: start :: (bytes2 count ++ recordBytes records))
      = some (.submitPalette lead start count records) := by
  simp [readSubmitPalette, bytes2, h]

theorem Request.params_length {r : Request} (h : r.sendable = true) : r.params.length < 65536 := by
  cases r
  case submitPalette lead start count records =>
    have hle : records.length ≤ 256 := by
      simp only [Request.sendable, Bool.and_eq_true, decide_eq_true_eq] at h
      exact h.2
    simp only [Request.params, List.length_cons, List.length_append, bytes2_length, recordBytes_length]
    omega
  all_goals simp [Request.params, Geometry.bytes]

/-- The parameters written for a command are read as the command. -/
theorem readRequest_params {r : Request} (h : r.sendable = true) : readRequest r.code r.params = some r := by
  cases r
  case submitPalette lead start count records =>
    simp only [Request.sendable, Bool.and_eq_true, decide_eq_true_eq] at h
    exact readSubmitPalette_params lead start count h
  case configure g => exact congrArg (Option.map Request.configure) (readGeometry_bytes g)
  case submitPan => simp [Request.code, Request.params, readRequest, readSubmitPan, bytes2]
  all_goals rfl

/-! ### Messages -/

theorem Target.bytes_length (t : Target) : t.bytes.2.length ≤ 5 := by cases t <;> simp [Target.bytes]

theorem readBeacon_payload (b : Beacon) : readBeacon (Message.beacon b).payload = some b := by
  obtain ⟨hlocked, hstamp⟩ := flagBits_low b.locked b.stampValid false false false
  simp only [Message.payload, bytes2, bytes4, List.cons_append, List.nil_append, readBeacon, ofBytes2_bytes2, ofBytes4_bytes4,
    hlocked, hstamp]

/-- A sendable message's payload fits the length field and the limit of R147. -/
theorem Message.payload_length {m : Message} (h : m.sendable = true) : m.payload.length ≤ 24 := by
  cases m
  case data id fragment records | dumpData requester fragment records =>
    simp only [Message.sendable, Bool.and_eq_true, decide_eq_true_eq] at h
    simp only [Message.payload, EditId.bytes, List.length_append, List.length_cons, List.length_nil, recordBytes_length]
    omega
  case propose id takeFrame target =>
    have := target.bytes_length
    simp only [Message.payload, EditId.bytes, List.length_append, List.length_cons, List.length_nil, bytes4_length]
    omega
  all_goals simp [Message.payload, EditId.bytes]

/-- The payload written for a message is read as the message. -/
theorem readPayload_payload {m : Message} (h : m.sendable = true) : readPayload m.kind m.payload = some m := by
  cases m
  case beacon b =>
    have hread := readBeacon_payload b
    simp only [Message.kind, readPayload, hread, Option.map_some]
  case propose id takeFrame target =>
    simp [Message.kind, Message.payload, EditId.bytes, bytes4, readPayload]
  case data id fragment records | dumpData requester fragment records =>
    simp only [Message.sendable, Bool.and_eq_true, decide_eq_true_eq] at h
    simp [Message.kind, Message.payload, EditId.bytes, readPayload, h]
  all_goals simp [Message.kind, Message.payload, EditId.bytes, bytes2, bytes4, readPayload]

/-- The sender is read from the lower five bits of the key. -/
theorem keyByte_sender {rank : Nat} {sender : Station} (hr : rank < 8) (hs : sender.toNat < 32) :
    (keyByte rank sender).toNat / 32 = rank ∧ BitVec.ofNat 8 ((keyByte rank sender).toNat % 32) = sender := by
  rw [keyByte_toNat rank sender hr]
  refine ⟨by omega, ?_⟩
  apply BitVec.eq_of_toNat_eq
  rw [BitVec.toNat_ofNat]
  omega

/-- A message is read by its kind and payload when its key, its length and its check agree. -/
theorem readMessage_of_check (key kind : Byte) (payload : List Byte) (h : payload.length ≤ 24) {k : MsgKind}
    (hk : MsgKind.ofCode kind = some k) (hkey : key.toNat / 32 = k.rank) {m : Message} (hm : readPayload k payload = some m) :
    readMessage (key :: kind :: BitVec.ofNat 8 payload.length :: (payload
      ++ bytes2 (frameCheck (key :: kind :: BitVec.ofNat 8 payload.length :: payload))))
      = .message (BitVec.ofNat 8 (key.toNat % 32)) m := by
  have hlen : (BitVec.ofNat 8 payload.length).toNat = payload.length := by
    rw [BitVec.toNat_ofNat]
    omega
  simp only [readMessage, hlen, List.length_append, bytes2_length, List.drop_left, List.take_left, h, and_self, if_true, hk, hkey,
    hm]

/-- Settles O24. -/
theorem commandFramesReadBack : Obligations.CommandFramesReadBack := by
  intro r h
  exact (readCommandFrame_commandFrame r.code r.params (Request.params_length h)).trans (readRequest_params h)

/-- Settles O25. -/
theorem messagesReadBack : Obligations.MessagesReadBack := by
  intro sender m hs h
  obtain ⟨hrank, hsender⟩ := keyByte_sender (MsgKind.rank_lt m.kind) hs
  have hread := readMessage_of_check (keyByte m.kind.rank sender) m.kind.code m.payload (Message.payload_length h)
    (MsgKind.ofCode_code m.kind) hrank (readPayload_payload h)
  have hmessage : readMessage (m.bytes sender) = .message sender m := by
    rw [hsender] at hread
    exact hread
  refine ⟨hmessage, ?_⟩
  unfold receptionCommand
  rw [hmessage]

/-! ### The tests of a SUBMIT -/

theorem Machine.State.submit_of_refusal {s : State} {x : Submission} {r : ResponseReason} (h : s.submitRefusal x = some r) :
    s.submit x = (s, refused r) := by
  simp only [State.submit, h]

/-- Settles O14: the tests stand in the order of R44. -/
theorem submitIsRefusedByTheFirstFailingTest : Obligations.SubmitIsRefusedByTheFirstFailingTest := by
  intro i x s hx hphase
  have refuses : ∀ r, s.submitRefusal x = some r →
      exec i s = .next { s with port := ⟨.response, some ⟨.refused, some r, []⟩⟩ } := fun r h => by
    rw [exec_of_submits hx hphase, State.submit_of_refusal h]
    rfl
  refine ⟨fun hrole => refuses _ ?_, fun hrole hcontents => refuses _ ?_, fun hrole hrange hlead hfull => refuses _ ?_,
    fun hrole hrange hlead hown hlength hid hconflict => refuses _ ?_,
    fun hrole hrange hlead hown hlength hid hconflict hroom => refuses _ ?_⟩
  · simp [State.submitRefusal, hrole]
  · have : ¬ (x.inRange && decide (4 ≤ x.lead.toNat)) = true := by simpa using hcontents
    simp [State.submitRefusal, hrole, this]
  · have : (decide (s.ownCount < 4) && decide (s.entries.length < 16) && (s.findEntry ⟨s.own, s.edit.sequence⟩).isNone)
        = false := by
      rw [Bool.eq_false_iff]
      simpa [State.own, and_assoc] using hfull
    simp [State.submitRefusal, hrole, hrange, hlead, this]
  · have hheld : s.conflictHeld x.target = true := State.conflictHeld_eq_true.2 hconflict
    simp [State.submitRefusal, State.own, hrole, hrange, hlead, hown, hlength, hid, hheld]
  · have hheld : s.conflictHeld x.target = false := State.conflictHeld_eq_false.2 hconflict
    simp [State.submitRefusal, State.own, hrole, hrange, hlead, hown, hlength, hid, hheld, hroom]

end Sys2Proof


/-! # STATUS and the read commands (R177, R178, R185) -/

namespace Sys2Proof.Machine

open Sys2Proof

/-! ### READ-PEER -/

/-- READ-PEER's bytes for what a peer has reported (R185). -/
def reportBytes (p : Peer) : List Byte :=
  match p.reported with
  | some r => [r.role.code, flagBits true r.locked p.capture.valid ((p.offset.map (·.fresh)).getD false) false]
      ++ bytes2 r.version ++ bytes4 r.frame
  | none => [0, flagBits false false p.capture.valid ((p.offset.map (·.fresh)).getD false) false] ++ List.replicate 6 0

/-- READ-PEER's bytes for an offset (R185). -/
def offsetBytes : Option Offset → List Byte
  | some o => (match o.value with
      | .value v => (1 : Byte) :: (bytes4 ((BitVec.ofInt 64 v).extractLsb' 32 32)
          ++ bytes4 ((BitVec.ofInt 64 v).extractLsb' 0 32))
      | .farAhead => 2 :: List.replicate 8 0
      | .farBehind => 3 :: List.replicate 8 0)
      ++ bytes4 o.own.frame ++ bytes4 (BitVec.ofNat 32 o.own.phase)
      ++ bytes4 o.peer.frame ++ bytes4 (BitVec.ofNat 32 o.peer.phase)
  | none => List.replicate 25 0

theorem Peer.payload_eq (p : Peer) : p.payload = [p.state.code, BitVec.ofNat 8 p.misses] ++ reportBytes p
    ++ bytes4 p.capture.senderFrame ++ bytes4 p.capture.own.frame ++ bytes4 (BitVec.ofNat 32 p.capture.own.phase)
    ++ offsetBytes p.offset ++ [p.verdict.code] := by
  have hreport : [(p.reported.map fun r => r.role.code).getD 0,
      flagBits p.reported.isSome ((p.reported.map (·.locked)).getD false) p.capture.valid
        ((p.offset.map (·.fresh)).getD false) false]
      ++ bytes2 ((p.reported.map (·.version)).getD 0) ++ bytes4 ((p.reported.map (·.frame)).getD 0) = reportBytes p := by
    unfold reportBytes
    cases p.reported <;> rfl
  have hoffset : [offsetCode p.offset] ++ bytes8 (offsetClocks p.offset) ++ ((p.offset.map Offset.own).getD ⟨0, 0⟩).bytes
      ++ ((p.offset.map Offset.peer).getD ⟨0, 0⟩).bytes = offsetBytes p.offset := by
    rcases p.offset with _ | ⟨value, own, peer, fresh⟩
    · decide
    · have hzero : bytes4 0#32 = [0, 0, 0, 0] := by decide
      cases value <;> simp [offsetBytes, offsetCode, offsetClocks, bytes8, Time.bytes, hzero]
  rw [← hreport, ← hoffset]
  simp [Peer.payload, Time.bytes]

theorem cleared_payload : (Peer.cleared Capture.empty).payload = List.replicate 48 0 := by decide

theorem State.peerShown_of_hidden {s : State} {n : Nat} {p : Peer} (hp : s.peers[n]? = some p)
    (h : n = s.cfg.station.toNat ∨ p.state = .absent) : s.peerShown n = Peer.cleared Capture.empty := by
  unfold State.peerShown State.peerAt State.own
  rcases h with h | h
  · rw [if_pos h]
  · by_cases hn : n = s.cfg.station.toNat
    · rw [if_pos hn]
    · rw [if_neg hn, hp]
      exact if_pos h

theorem State.peerShown_of_present {s : State} {n : Nat} {p : Peer} (hp : s.peers[n]? = some p)
    (hn : n ≠ s.cfg.station.toNat) (h : p.state ≠ .absent) : s.peerShown n = p := by
  unfold State.peerShown State.peerAt State.own
  rw [if_neg hn, hp]
  exact if_neg h

/-! ### READ-EDIT -/

/-- A set of station numbers is sent as the bits of its members. -/
theorem stationBytes_eq {xs : List Station} {bits : BitVec 32}
    (h : ∀ j, j < 32 → bits.getLsbD j = decide (BitVec.ofNat 8 j ∈ xs)) : stationBytes xs = bytes4 bits := by
  unfold stationBytes
  congr 1
  apply BitVec.eq_of_getLsbD_eq
  intro j hj
  rw [getLsbD_bitSet 32 _ hj, h j hj, decide_eq_decide, List.mem_map]
  constructor
  · rintro ⟨x, hx, rfl⟩
    simpa using hx
  · exact fun hx => ⟨_, hx, by rw [BitVec.toNat_ofNat]; omega⟩

theorem fragmentBytes_eq {xs : List Nat} {bits : BitVec 56} (h : ∀ j, j < 56 → bits.getLsbD j = decide (j ∈ xs)) :
    fragmentBytes xs = bytes3 (bits.extractLsb' 32 24) ++ bytes4 (bits.extractLsb' 0 32) := by
  have hbits : bitSet 56 xs = bits := BitVec.eq_of_getLsbD_eq fun j hj => by rw [getLsbD_bitSet 56 _ hj, h j hj]
  rw [fragmentBytes, hbits]

/-- READ-EDIT's byte for the kind of a target (R185). -/
def targetKindByte : Target → Byte
  | .palette .. => 0
  | .pan .. => 1
  | .level _ => 2
  | .blank _ => 3

/-- READ-EDIT's bytes for the contents of a target (R185). -/
def targetFields : Target → List Byte
  | .palette start count check => start :: (bytes2 count ++ bytes2 check)
  | .pan x y => bytes2 x ++ bytes2 y ++ [0]
  | .level value => [value, 0, 0, 0, 0]
  | .blank on => [if on then 1 else 0, 0, 0, 0, 0]

/-- READ-EDIT's bytes for the records a target reserves (R185). -/
def targetSize : Target → List Byte
  | .palette _ count _ => bytes2 count
  | _ => [0, 0]

/-- READ-EDIT's byte for the message owed (R185). -/
def owedByte : Option Owed → Byte
  | some o => o.kind.code
  | none => 0

theorem bytes2_reservation (t : Target) : bytes2 (BitVec.ofNat 16 t.reservation) = targetSize t := by
  cases t
  case palette => simp [Target.reservation, targetSize]
  all_goals exact (by decide : bytes2 0#16 = [0, 0])

theorem EditEntry.payload_eq (e : EditEntry) : e.payload = [1, e.id.proposer, e.id.sequence] ++ [targetKindByte e.target]
    ++ bytes4 e.takeFrame ++ targetFields e.target ++ targetSize e.target
    ++ [e.holding.code, e.state.code, flagBits (decide (e.proposed = some true)) e.late e.deferred e.queryWait.isSome false]
    ++ fragmentBytes (e.received.getD []) ++ stationBytes (e.voters.getD []) ++ stationBytes (e.pendingVoters.getD [])
    ++ [BitVec.ofNat 8 (e.cursor.getD 0), BitVec.ofNat 8 (e.queryTries.getD 0), BitVec.ofNat 8 (e.queryWait.getD 0),
      owedByte e.owed] := by
  have hproposed : e.proposed.getD false = decide (e.proposed = some true) := by
    rcases e.proposed with _ | b
    · rfl
    · cases b <;> rfl
  have hkind : e.target.code = targetKindByte e.target := by cases e.target <;> rfl
  have hfields : targetBytes e.target = targetFields e.target := by cases e.target <;> rfl
  have howed : (e.owed.map fun o => o.kind.code).getD 0 = owedByte e.owed := by cases e.owed <;> rfl
  rw [EditEntry.payload, bytes2_reservation, hproposed, hkind, hfields, howed]
  simp [EditId.bytes]

theorem exec_status {f : List Byte} {s : State} (hread : readCommandFrame f = some .status) (hphase : s.port.phase = .command) :
    exec (.status f) s = .next { s with port := ⟨.response, some (done s.statusPayload)⟩ } :=
  congrArg Host.Outcome.next (State.transact_command hphase hread rfl)

theorem exec_readPeer {f : List Byte} {s : State} {index : Byte} (hread : readCommandFrame f = some (.readPeer index))
    (hphase : s.port.phase = .command) :
    exec (.readPeer f) s = .next { s with port := ⟨.response, some (s.readPeer index)⟩ } :=
  congrArg Host.Outcome.next (State.transact_command hphase hread rfl)

theorem exec_readEdit {f : List Byte} {s : State} {index : Byte} (hread : readCommandFrame f = some (.readEdit index))
    (hphase : s.port.phase = .command) :
    exec (.readEdit f) s = .next { s with port := ⟨.response, some (s.readEdit index)⟩ } :=
  congrArg Host.Outcome.next (State.transact_command hphase hread rfl)

theorem exec_readPalette {f : List Byte} {s : State} {index : Byte} (hread : readCommandFrame f = some (.readPalette index))
    (hphase : s.port.phase = .command) :
    exec (.readPalette f) s = .next { s with port := ⟨.response, some (s.readPalette index)⟩ } :=
  congrArg Host.Outcome.next (State.transact_command hphase hread rfl)

end Sys2Proof.Machine

namespace Sys2Proof

open Sys2Proof.Machine

/-- Settles O8. -/
theorem readsReportTheStateAndChangeNothing : Obligations.ReadsReportTheStateAndChangeNothing := by
  refine ⟨⟨rfl, rfl, rfl, rfl, rfl, rfl⟩, fun f s hphase => ⟨fun hread => exec_status hread hphase, fun index hread => ?_,
    fun index hread => ?_, fun index c hread hc => ?_⟩⟩
  · rw [exec_readPeer hread hphase]
    refine ⟨fun h => ?_, fun p hp hhidden => ?_, fun p hp hown hpresent => ?_⟩
    · rw [State.readPeer, if_neg (by omega)]
      rfl
    · have hlt : index.toNat < 32 := (Vector.getElem?_eq_some_iff.1 hp).1
      rw [State.readPeer, if_pos hlt, State.peerShown_of_hidden hp (hhidden.imp_left fun h => by rw [h]), cleared_payload]
      rfl
    · have hlt : index.toNat < 32 := (Vector.getElem?_eq_some_iff.1 hp).1
      rw [State.readPeer, if_pos hlt,
        State.peerShown_of_present hp (fun h => hown (BitVec.eq_of_toNat_eq h)) hpresent, Peer.payload_eq]
      unfold reportBytes offsetBytes
      rfl
  · rw [exec_readEdit hread hphase]
    refine ⟨fun h => ?_, fun h hnone => ?_, fun e received voters pending he hreceived hvoters hpending => ?_⟩
    · rw [State.readEdit, if_neg (by omega)]
      rfl
    · rw [State.readEdit, if_pos h, hnone]
      rfl
    · rw [State.readEdit, if_pos (State.entryAt_lt he), he, editPayload, EditEntry.payload_eq, fragmentBytes_eq hreceived,
        stationBytes_eq hvoters, stationBytes_eq hpending, ← List.append_assoc]
      rfl
  · rw [exec_readPalette hread hphase, State.readPalette, hc]
    rfl

end Sys2Proof


/-! # Receptions and the arrivals of reports, queries and dumps (R61 to R68, R133 to R135, R141, R147) -/

namespace Sys2Proof.Machine

open Sys2Proof

/-! ### Withdrawals where no attempt is in progress -/

theorem State.enter_of_idle {s : State} (h : s.bus.attempt = none) (i : Nat) (e : EditEntry) (k : Option MsgKind) :
    s.enter i e k = s.putEntry i (some { e with owed := k.map fun k => ⟨k, 0⟩ }) := by
  rw [State.enter, State.withdraw_of_none _ h]

theorem State.removeEntry_of_idle {s : State} (h : s.bus.attempt = none) (i : Nat) : s.removeEntry i = s.putEntry i none := by
  rw [State.removeEntry, State.withdraw_of_none _ h]

theorem State.entryAt_putEntry_of_held {s : State} {i : Nat} {e : EditEntry} (h : s.entryAt i = some e) (x : Option EditEntry) :
    (s.putEntry i x).entryAt i = x := by
  rw [State.entryAt_putEntry, if_pos ⟨rfl, State.entryAt_lt h⟩]

theorem exec_takeArrival_of_hears {s : State} (h : s.hears) (sender : Station) (eid : EditId) :
    exec (.takeArrival sender eid) s = .next (s.goodReception.takeArrives sender eid) :=
  congrArg Host.Outcome.next (State.arrive_of_hears _ h)

theorem exec_dropArrival_of_hears {s : State} (h : s.hears) (sender : Station) (eid : EditId) (reason : Byte) :
    exec (.dropArrival sender eid reason) s = .next (s.goodReception.dropArrives sender eid) :=
  congrArg Host.Outcome.next (State.arrive_of_hears _ h)

theorem exec_queryArrival_of_hears {s : State} (h : s.hears) (sender : Station) (eid : EditId) :
    exec (.queryArrival sender eid) s = .next (s.goodReception.queryArrives sender eid) :=
  congrArg Host.Outcome.next (State.arrive_of_hears _ h)

theorem exec_outcomeArrival_of_hears {s : State} (h : s.hears) (sender : Station) (eid : EditId) (taken : Bool) :
    exec (.outcomeArrival sender eid taken) s = .next (s.goodReception.outcomeArrives sender eid taken) :=
  congrArg Host.Outcome.next (State.arrive_of_hears _ h)

/-! ### A detachment -/

theorem State.detach_role (s : State) (why : Reason) : (s.detach why).ctl.role = .detached := by
  rw [(s.detach_left why).ctl]

/-! ### TAKE and DROP -/

theorem State.catchingUp_eq_decide (s : State) : s.catchingUp = decide (s.catchUp.req.state ≠ .idle) := by
  rw [Bool.eq_iff_iff, State.catchingUp_iff, decide_eq_true_eq]

/-- The states of an entry that waits for the proposer's decision (R61, R67). -/
def EditEntry.waiting (e : EditEntry) : Prop := e.state = .accepted ∨ e.state = .complete ∨ e.state = .inDoubt

/-- The entry TAKEN on a report, as R61 and R62 leave it. -/
def EditEntry.taken (f : FrameNo) (e : EditEntry) : EditEntry :=
  { e with state := .taken, late := decide (¬ 0 < frameDiff e.takeFrame f), queryWait := none, owed := none }

/-- The queue after a report that makes an entry TAKEN (R61, R62). -/
def takenEvents (q : List Event) (f : FrameNo) (e : EditEntry) : List Event :=
  if decide (¬ 0 < frameDiff e.takeFrame f) then joinQueue q ⟨.takeLate, f, none, some e.id, none, none, false⟩ else q

/-- An entry that becomes TAKEN where no attempt is in progress. -/
theorem State.becomeTaken_of_idle {s : State} (hidle : s.bus.attempt = none) (i : Nat) (e : EditEntry) :
    s.becomeTaken i e = { s.putEntry i (some (e.taken s.timer.frame)) with events := takenEvents s.events s.timer.frame e } := by
  have hlate : (!laterThan e.takeFrame s.frame) = decide (¬ 0 < frameDiff e.takeFrame s.timer.frame) := (decide_not ..).symm
  unfold State.becomeTaken takenEvents
  dsimp only
  rw [hlate, State.enter_of_idle hidle]
  split <;> rfl

theorem State.takeArrives_of_held {s : State} {sender : Station} {eid : EditId} {i : Nat} {e : EditEntry}
    (hsender : s.fromProposer sender eid = true) (hfind : s.findEntry eid = some (i, e)) :
    (e.waiting → s.takeArrives sender eid = (s.becomeTaken i e).recordOutcome ⟨eid, true, none, none⟩)
    ∧ (e.state = .collecting → e.holding = .observer → s.takeArrives sender eid = (s.removeEntry i).noteMissed)
    ∧ (e.state = .taken ∨ (e.state = .collecting ∧ e.holding = .voter) → s.takeArrives sender eid = s) := by
  unfold State.takeArrives
  rw [if_pos hsender, hfind]
  refine ⟨fun h => ?_, fun h hh => ?_, fun h => ?_⟩
  · rcases h with h | h | h <;> simp only [h]
  · simp only [h, hh, if_true]
  · rcases h with h | ⟨h, hh⟩
    · simp only [h]
    · simp [h, hh]

theorem State.dropArrives_of_held {s : State} {sender : Station} {eid : EditId} {i : Nat} {e : EditEntry}
    (hsender : s.fromProposer sender eid = true) (hfind : s.findEntry eid = some (i, e)) :
    (e.state = .collecting ∨ e.waiting →
      s.dropArrives sender eid = (s.dropEntry i e .droppedByProposer).recordOutcome ⟨eid, false, none, none⟩)
    ∧ (e.state = .taken → s.dropArrives sender eid = s) := by
  unfold State.dropArrives
  rw [if_pos hsender, hfind]
  refine ⟨fun h => ?_, fun h => ?_⟩
  · rcases h with h | h | h | h <;> simp only [h]
  · simp only [h]

/-! ### QUERY and OUTCOME -/

/-- A QUERY's answer at the outcome list leaves the rest (R66). -/
theorem State.answerQuery_eq (s : State) (eid : EditId) : s.answerQuery eid = { s with edit := { s.edit with
    outcomes := if s.ctl.role = .member then
        s.edit.outcomes.map fun o => if o.id = eid ∧ o.owed = none then { o with owed := some ⟨.outcome, 0⟩ } else o
      else s.edit.outcomes } } := by
  have hmap : ∀ o : OutcomeEntry, (if o.id = eid then
      (if o.owed = none then { o with owed := some ⟨.outcome, 0⟩ } else o) else o)
      = if o.id = eid ∧ o.owed = none then { o with owed := some ⟨.outcome, 0⟩ } else o := fun o => by
    by_cases h : o.id = eid <;> simp [h]
  unfold State.answerQuery
  split
  · simp only [State.setOutcome, hmap]
  · rfl

/-- R66 at the edit table, where no attempt is in progress. -/
theorem State.yieldQuery_of_idle {s : State} (hidle : s.bus.attempt = none) (eid : EditId) :
    (s.findEntry eid = none → s.yieldQuery eid = s)
    ∧ ∀ i e, s.findEntry eid = some (i, e) →
      s.yieldQuery eid = if e.owed.map (·.kind) = some .query then s.putEntry i (some { e with owed := none }) else s := by
  unfold State.yieldQuery
  refine ⟨fun h => by rw [h], fun i e h => ?_⟩
  rw [h]
  simp only [State.inAttempt_of_none _ hidle, Bool.not_false, and_true]

/-- R67 at the edit table, where no attempt is in progress. -/
theorem State.learnOutcome_of_held {s : State} {eid : EditId} {i : Nat} {e : EditEntry}
    (hfind : s.findEntry eid = some (i, e)) (taken : Bool) :
    (e.waiting → s.learnOutcome eid taken = if taken then s.becomeTaken i e else s.dropEntry i e .droppedByProposer)
    ∧ (e.state = .collecting ∨ e.state = .taken → s.learnOutcome eid taken = s) := by
  unfold State.learnOutcome
  rw [hfind]
  refine ⟨fun h => ?_, fun h => ?_⟩
  · rcases h with h | h | h <;> simp only [h]
  · rcases h with h | h <;> simp only [h]

theorem State.learnOutcome_outcomes (s : State) (eid : EditId) (taken : Bool) :
    (s.learnOutcome eid taken).edit.outcomes = s.edit.outcomes := by
  unfold State.learnOutcome State.becomeTaken
  dsimp only
  split
  · split
    case h_1 | h_2 | h_3 =>
      split
      · split <;> rfl
      · rfl
    all_goals rfl
  · rfl

/-- An outcome entry whose owed OUTCOME for an id is withdrawn (R68). -/
def OutcomeEntry.yielded (eid : EditId) (o : OutcomeEntry) : OutcomeEntry :=
  if o.id = eid ∧ o.owed.map (·.kind) = some .outcome then { o with owed := none } else o

theorem State.yieldOutcome_of_idle {s : State} (hidle : s.bus.attempt = none) (eid : EditId) :
    s.yieldOutcome eid = { s with edit := { s.edit with outcomes := s.edit.outcomes.map (OutcomeEntry.yielded eid) } } := by
  have hmap : ∀ o : OutcomeEntry, (if o.id = eid then
      (if o.owed.map (·.kind) = some .outcome then { o with owed := none } else o) else o) = o.yielded eid := fun o => by
    unfold OutcomeEntry.yielded
    by_cases h : o.id = eid <;> simp [h]
  unfold State.yieldOutcome
  rw [State.inAttempt_of_none _ hidle]
  simp only [State.setOutcome, hmap]
  rfl

/-- Where no entry holds the id an OUTCOME teaches nothing. -/
theorem State.learnOutcome_of_none {s : State} {eid : EditId} (h : s.findEntry eid = none) (taken : Bool) :
    s.learnOutcome eid taken = s := by
  rw [State.learnOutcome, h]

end Sys2Proof.Machine

namespace Sys2Proof

open Sys2Proof.Machine

/-- Settles O30. -/
theorem receptionsKeepTheirTimeAndStreak : Obligations.ReceptionsKeepTheirTimeAndStreak := by
  intro s hr
  refine ⟨fun hgap hidle => ?_, ?_, fun hs => ?_⟩
  · simp only [exec, execReceptionStart, hr, hgap, hidle, and_self, if_true]
    rfl
  · simp only [exec, execIdleGap, hr, if_true]
  · have hheard := State.reception_of_hears hs
    have hcorrupt : exec .corruptReception s = .next s.corrupt := by
      simp only [exec, execCorruptReception, hheard, if_true]
    refine ⟨?_, fun bytes => congrArg Host.Outcome.next (State.arrive_of_hears _ hs), fun hlt => ?_, fun heq => ?_⟩
    · simp only [exec, execVoidReception, hheard, if_true]
      rfl
    · rw [hcorrupt, State.corrupt]
      exact congrArg Host.Outcome.next (if_neg (not_le.2 hlt))
    · have hdetach : s.corrupt = ({ s with bus := { s.bus with
          attempt := none, corruptStreak := s.bus.corruptStreak + 1, driven := .error } }).detach .receive :=
        if_pos (ge_of_eq heq)
      rw [hcorrupt, hdetach]
      exact ⟨_, rfl, State.detach_role _ _, (State.detach_left _ _).wall, (State.detach_left _ _).streaks.1,
        (State.detach_left _ _).streaks.2, (State.detach_left _ _).driven⟩

/-- Settles O42. -/
theorem takeAndDropActByTheStateOfTheEntry : Obligations.TakeAndDropActByTheStateOfTheEntry := by
  intro sender eid reason s k e hs hfind
  have hgood : s.goodReception.findEntry eid = some (k, e) := hfind
  obtain ⟨he, hid⟩ := State.findEntry_some hgood
  have hidle : s.goodReception.bus.attempt = none := rfl
  dsimp only
  rw [exec_takeArrival_of_hears hs, exec_dropArrival_of_hears hs]
  refine ⟨fun hother => ?_, fun hown hproposer => ?_⟩
  · have hnot : s.goodReception.fromProposer sender eid = false := by
      rw [← Bool.not_eq_true, State.fromProposer_iff]
      rintro ⟨hne, heq⟩
      exact hother.elim hne fun h => h heq
    simp only [State.takeArrives, State.dropArrives, hnot]
    exact ⟨rfl, rfl⟩
  · have hfrom : s.goodReception.fromProposer sender eid = true := State.fromProposer_iff.2 ⟨hown, hproposer⟩
    obtain ⟨htake, hobserver, hstays⟩ := State.takeArrives_of_held hfrom hgood
    obtain ⟨hdrop, hkept⟩ := State.dropArrives_of_held hfrom hgood
    refine ⟨fun h => ?_, fun h hh => ?_, fun h => by rw [hstays h]; rfl, fun h => ?_, fun h => by rw [hkept h]; rfl⟩
    · rw [htake h, State.becomeTaken_of_idle hidle]
      refine ⟨_, congrArg Host.Outcome.next (State.recordOutcome_of_none _ _ hidle), State.entryAt_putEntry_of_held he _, rfl, ?_⟩
      rw [← hid]
      rfl
    · rw [hobserver h hh, State.removeEntry_of_idle hidle, State.noteMissed_eq]
      refine ⟨_, rfl, State.entryAt_putEntry_of_held he _, rfl, rfl, ?_⟩
      exact congrArg (s.catchUp.req.missed || ·) (State.catchingUp_eq_decide _)
    · rw [hdrop h, State.dropEntry_of_none _ _ _ _ hidle]
      refine ⟨_, congrArg Host.Outcome.next (State.recordOutcome_of_none _ _ hidle), State.entryAt_putEntry_of_held he _, rfl, ?_⟩
      rw [← hid]
      rfl

/-- Settles O43. -/
theorem queryIsAnsweredFromTheOutcomeList : Obligations.QueryIsAnsweredFromTheOutcomeList := by
  intro sender eid s hs
  have hidle : s.goodReception.bus.attempt = none := rfl
  dsimp only
  rw [exec_queryArrival_of_hears hs]
  refine ⟨fun hown => ?_, fun hother => ?_⟩
  · rw [State.queryArrives, if_pos (show sender = s.goodReception.own from hown)]
    rfl
  · have harrives : s.goodReception.queryArrives sender eid = (s.goodReception.answerQuery eid).yieldQuery eid :=
      if_neg hother
    rw [harrives, State.answerQuery_eq]
    generalize houtcomes : (if s.goodReception.ctl.role = .member then s.goodReception.edit.outcomes.map fun o =>
      if o.id = eid ∧ o.owed = none then { o with owed := some ⟨.outcome, 0⟩ } else o
      else s.goodReception.edit.outcomes) = q
    obtain ⟨hnone, hsome⟩ := State.yieldQuery_of_idle
      (s := { s.goodReception with edit := { s.goodReception.edit with outcomes := q } }) hidle eid
    refine ⟨_, rfl, ?_⟩
    rcases hfind : s.findEntry eid with _ | ⟨i, e⟩
    · rw [hnone hfind]
      exact ⟨rfl, houtcomes.symm, fun _ _ h => absurd h (by simp), fun _ => rfl⟩
    · rw [hsome i e hfind]
      refine ⟨?_, ?_, fun k e' h => ?_, fun h => absurd h (by simp)⟩
      · split <;> rfl
      · exact (by split <;> rfl : _ = q).trans houtcomes.symm
      · cases h
        have he : s.entryAt i = some e := (State.findEntry_some hfind).1
        split
        · exact State.entryAt_putEntry_of_held he _
        · exact he

/-- Settles O44. -/
theorem outcomeSettlesAWaitingEntry : Obligations.OutcomeSettlesAWaitingEntry := by
  intro sender eid s hs
  have hidle : s.goodReception.bus.attempt = none := rfl
  refine ⟨fun taken hown => ?_, fun taken hother => ?_⟩
  · rw [exec_outcomeArrival_of_hears hs, State.outcomeArrives, if_pos (show sender = s.goodReception.own from hown)]
    rfl
  · have harrives : s.goodReception.outcomeArrives sender eid taken
        = (s.goodReception.learnOutcome eid taken).yieldOutcome eid := if_neg hother
    have hquiet := (EditWork.learnOutcome s.goodReception eid taken).idle hidle
    rw [exec_outcomeArrival_of_hears hs, harrives]
    refine ⟨_, congrArg Host.Outcome.next (State.yieldOutcome_of_idle hquiet eid), ?_, fun k e hfind => ?_, fun hnone => ?_⟩
    · dsimp only
      rw [State.learnOutcome_outcomes]
      rfl
    · have hgood : s.goodReception.findEntry eid = some (k, e) := hfind
      obtain ⟨he, hid⟩ := State.findEntry_some hgood
      obtain ⟨hwait, hstay⟩ := State.learnOutcome_of_held hgood taken
      refine ⟨fun hw => ⟨fun ht => ?_, fun ht => ?_⟩, fun h => ?_⟩
      · rw [hwait hw, ht, if_pos rfl, State.becomeTaken_of_idle hidle]
        refine ⟨State.entryAt_putEntry_of_held he _, ?_⟩
        rw [← hid]
        rfl
      · rw [hwait hw, ht, if_neg Bool.false_ne_true, State.dropEntry_of_none _ _ _ _ hidle]
        refine ⟨State.entryAt_putEntry_of_held he _, ?_⟩
        rw [← hid]
        rfl
      · rw [hstay h]
        exact ⟨rfl, rfl⟩
    · rw [State.learnOutcome_of_none (s := s.goodReception) hnone]
      exact ⟨rfl, rfl⟩

end Sys2Proof

/-!
# The arrivals of a dump

What a DUMP-BEGIN, a DUMP-DATA and a DUMP-END do to the requester and to the responder, and the judgement of a dump as a
proposition.
-/

namespace Sys2Proof.Machine

open Sys2Proof

theorem exec_dumpBeginArrival_of_hears {s : State} (h : s.hears) (sender requester : Station) (hd : Header) :
    exec (.dumpBeginArrival sender requester hd) s
      = .next ((s.goodReception.requesterDumpBegin sender requester hd).responderDumpBegin sender requester) :=
  congrArg Host.Outcome.next (State.arrive_of_hears _ h)

theorem exec_dumpDataArrival_of_hears {s : State} (h : s.hears) (sender requester : Station) (fragment : Byte)
    (records : List Colour) :
    exec (.dumpDataArrival sender requester fragment records) s
      = .next (s.goodReception.dumpDataArrives sender requester fragment.toNat records) :=
  congrArg Host.Outcome.next (State.arrive_of_hears _ h)

theorem exec_dumpEndArrival_of_hears {s : State} (h : s.hears) (sender requester : Station) (torn : Bool) (check : Half) :
    exec (.dumpEndArrival sender requester torn check) s = .next (s.goodReception.dumpEndArrives sender requester torn check) :=
  congrArg Host.Outcome.next (State.arrive_of_hears _ h)

/-- R133: the conditions under which a DUMP-BEGIN starts the reception. -/
def State.startsReception (s : State) (sender requester : Station) : Prop :=
  requester = s.cfg.station ∧ sender ≠ s.cfg.station ∧ (s.catchUp.req.state = .asking
    ∨ (s.catchUp.req.state = .receiving ∧ s.catchUp.req.responder = some sender))

theorem State.requesterDumpBegin_of_starts {s : State} {sender requester : Station} (hstarts : s.startsReception sender requester)
    (h : Header) : s.requesterDumpBegin sender requester h = s.startReception sender h := by
  obtain ⟨hown, hother, hstate⟩ := hstarts
  unfold State.requesterDumpBegin
  rw [if_neg (not_or.2 ⟨not_not.2 (show requester = s.own from hown), show sender ≠ s.own from hother⟩)]
  rcases hstate with hask | ⟨hreceive, hresponder⟩
  · rw [hask]
  · rw [hreceive]
    exact if_pos hresponder

theorem State.requesterDumpBegin_of_not_starts {s : State} {sender requester : Station}
    (hnot : ¬ s.startsReception sender requester) (h : Header) : s.requesterDumpBegin sender requester h = s := by
  unfold State.requesterDumpBegin
  split
  · rfl
  · next hothers =>
    obtain ⟨hown, hother⟩ := not_or.1 hothers
    split
    · next hask => exact absurd ⟨not_not.1 hown, hother, .inl hask⟩ hnot
    · next hreceive => exact if_neg fun hresponder => hnot ⟨not_not.1 hown, hother, .inr ⟨hreceive, hresponder⟩⟩
    all_goals rfl

/-- A DUMP-BEGIN at the requester touches the requester, the buffer and the marks of the attempt alone. -/
theorem State.requesterDumpBegin_rest (s : State) (sender requester : Station) (h : Header) :
    (s.requesterDumpBegin sender requester h).catchUp.resp = s.catchUp.resp
    ∧ (s.requesterDumpBegin sender requester h).cfg = s.cfg
    ∧ (s.requesterDumpBegin sender requester h).wall = s.wall ∧ (s.requesterDumpBegin sender requester h).edit = s.edit
    ∧ (s.requesterDumpBegin sender requester h).ctl = s.ctl ∧ (s.requesterDumpBegin sender requester h).timer = s.timer
    ∧ (s.requesterDumpBegin sender requester h).events = s.events := by
  by_cases hstarts : s.startsReception sender requester
  · rw [State.requesterDumpBegin_of_starts hstarts]
    exact ⟨rfl, rfl, rfl, rfl, rfl, rfl, rfl⟩
  · rw [State.requesterDumpBegin_of_not_starts hstarts]
    exact ⟨rfl, rfl, rfl, rfl, rfl, rfl, rfl⟩

/-- A DUMP-BEGIN at the responder touches the responder and the marks of the attempt alone. -/
theorem State.responderDumpBegin_rest (s : State) (sender requester : Station) :
    (s.responderDumpBegin sender requester).catchUp.req = s.catchUp.req
    ∧ (s.responderDumpBegin sender requester).catchUp.buffer = s.catchUp.buffer
    ∧ (s.responderDumpBegin sender requester).wall = s.wall ∧ (s.responderDumpBegin sender requester).edit = s.edit
    ∧ (s.responderDumpBegin sender requester).ctl = s.ctl ∧ (s.responderDumpBegin sender requester).timer = s.timer
    ∧ (s.responderDumpBegin sender requester).events = s.events := by
  unfold State.responderDumpBegin
  split <;> exact ⟨rfl, rfl, rfl, rfl, rfl, rfl, rfl⟩

/-- R141: the conditions under which a DUMP-BEGIN ends the offer of this station. -/
def State.endsOffer (s : State) (sender requester : Station) : Prop :=
  s.catchUp.resp.state = .offering ∧ s.catchUp.resp.requester = some requester ∧ sender ≠ s.cfg.station

theorem State.responderDumpBegin_of_ends {s : State} {sender requester : Station} (h : s.endsOffer sender requester) :
    s.responderDumpBegin sender requester = (s.withdraw .responder).setResp Responder.reset := if_pos h

theorem State.responderDumpBegin_of_not_ends {s : State} {sender requester : Station} (h : ¬ s.endsOffer sender requester) :
    s.responderDumpBegin sender requester = s := if_neg h

theorem State.fromResponder_iff {s : State} {sender requester : Station} :
    s.fromResponder sender requester = true ↔
      requester = s.cfg.station ∧ s.catchUp.req.state = .receiving ∧ s.catchUp.req.responder = some sender := by
  simp only [State.fromResponder, State.own, Bool.and_eq_true, decide_eq_true_eq, and_assoc]
  exact and_congr_left fun _ => ⟨of_decide_eq_true, fun h => decide_eq_true h⟩

theorem State.dumpGood_iff {s : State} {torn : Bool} {check : Half} :
    s.dumpGood torn check = true ↔ torn = false ∧ (∀ j, j < 52 → j ∈ s.catchUp.req.received)
      ∧ checkValue 0 (s.catchUp.buffer.toList.map recordOr) = check := by
  simp only [State.dumpGood, Bool.and_eq_true, Bool.not_eq_true', holdsAll_iff, decide_eq_true_eq, and_assoc]

/-- Of the 52 fragments of 256 records all but the last carry five (R16). -/
theorem fragmentSize_palette {j : Nat} (h : j < 52) : fragmentSize 256 j = if j = 51 then 1 else 5 := by
  unfold fragmentSize
  split <;> omega

/-- A failed try counts, empties what was received, and asks again or begins the retry wait. -/
theorem State.failedTry_spec (s : State) :
    s.failedTry.catchUp.req.tries = s.catchUp.req.tries + 1 ∧ s.failedTry.catchUp.req.missed = s.catchUp.req.missed
    ∧ s.failedTry.catchUp.req.received = [] ∧ s.failedTry.catchUp.buffer = emptyBuffer
    ∧ (s.catchUp.req.tries + 1 < 4 →
        s.failedTry.catchUp.req.state = .asking ∧ s.failedTry.catchUp.req.owed = some ⟨.dumpRequest, 0⟩
        ∧ s.failedTry.events = s.events)
    ∧ (4 ≤ s.catchUp.req.tries + 1 →
        s.failedTry.catchUp.req.state = .retryWait ∧ s.failedTry.catchUp.req.retryWait = some 64
        ∧ s.failedTry.events = joinQueue s.events ⟨.dumpFailed, s.timer.frame, none, none, none, none, false⟩) := by
  unfold State.failedTry
  dsimp only
  split
  · next hlt => exact ⟨rfl, rfl, rfl, rfl, fun _ => ⟨rfl, rfl, rfl⟩, fun hge => absurd hlt (not_lt.2 hge)⟩
  · next hge => exact ⟨rfl, rfl, rfl, rfl, fun hlt => absurd hlt hge, fun _ => ⟨rfl, rfl, rfl⟩⟩

end Sys2Proof.Machine

namespace Sys2Proof

open Sys2Proof.Machine

/-- Settles O46. -/
theorem dumpBeginStartsAReceptionOrEndsAnOffer : Obligations.DumpBeginStartsAReceptionOrEndsAnOffer := by
  intro sender requester h s hs
  obtain ⟨hresp, hcfg, hwall, hedit, hctl, htimer, hevents⟩ := s.goodReception.requesterDumpBegin_rest sender requester h
  obtain ⟨hreq', hbuffer', hwall', hedit', hctl', htimer', hevents'⟩ :=
    (s.goodReception.requesterDumpBegin sender requester h).responderDumpBegin_rest sender requester
  have hends : (s.goodReception.requesterDumpBegin sender requester h).endsOffer sender requester
      ↔ s.goodReception.endsOffer sender requester := by
    rw [State.endsOffer, hresp, hcfg]
    rfl
  refine ⟨_, exec_dumpBeginArrival_of_hears hs sender requester h, fun hstarts => ?_, fun hnot => ?_, fun hoffer => ?_,
    fun hnot => ?_, hwall'.trans hwall, hedit'.trans hedit, hctl'.trans hctl, htimer'.trans htimer, hevents'.trans hevents⟩
  · rw [hreq', hbuffer', State.requesterDumpBegin_of_starts (s := s.goodReception) hstarts]
    exact ⟨rfl, rfl⟩
  · rw [hreq', hbuffer', State.requesterDumpBegin_of_not_starts (s := s.goodReception) hnot]
    exact ⟨rfl, rfl⟩
  · rw [State.responderDumpBegin_of_ends (hends.2 hoffer)]
    rfl
  · rw [State.responderDumpBegin_of_not_ends (mt hends.1 hnot), hresp]
    rfl

/-- Settles O47. -/
theorem dumpDataIsStoredAndDumpEndJudges : Obligations.DumpDataIsStoredAndDumpEndJudges := by
  intro sender requester s hs
  dsimp only
  refine ⟨fun hnot => ?_, fun hfrom => ?_⟩
  · have hother := mt (State.fromResponder_iff (s := s.goodReception)).1 hnot
    refine ⟨fun fragment records => ?_, fun torn check => ?_⟩
    · rw [exec_dumpDataArrival_of_hears hs, State.dumpDataArrives, if_neg hother]
      rfl
    · rw [exec_dumpEndArrival_of_hears hs, State.dumpEndArrives, if_neg hother]
      rfl
  · have hresponder := (State.fromResponder_iff (s := s.goodReception)).2 hfrom
    have hstores : ∀ (fragment : Byte) (records : List Colour),
        (fragment.toNat < 52 ∧ fragment.toNat ∉ s.catchUp.req.received
          ∧ records.length = (if fragment.toNat = 51 then 1 else 5))
        ↔ (fragment.toNat < 52 ∧ (!s.catchUp.req.received.contains fragment.toNat) = true
          ∧ records.length = fragmentSize 256 fragment.toNat) := fun fragment records => by
      refine and_congr_right fun hlt => ?_
      rw [fragmentSize_palette hlt]
      simp
    refine ⟨fun fragment records => ?_, fun torn check => ?_⟩
    · rw [exec_dumpDataArrival_of_hears hs, State.dumpDataArrives, if_pos hresponder, hstores]
      exact ⟨fun h => congrArg Host.Outcome.next (if_pos h), fun h => congrArg Host.Outcome.next (if_neg h)⟩
    · rw [exec_dumpEndArrival_of_hears hs, State.dumpEndArrives, if_pos hresponder]
      refine ⟨fun hgood => ?_, fun hbad => ?_⟩
      · exact congrArg Host.Outcome.next (if_pos ((State.dumpGood_iff (s := s.goodReception)).2 hgood))
      · exact ⟨_, congrArg Host.Outcome.next (if_neg (mt (State.dumpGood_iff (s := s.goodReception)).1 hbad)),
          s.goodReception.failedTry_spec⟩

end Sys2Proof

/-!
# The arrival of a proposal

The tests of an arriving PROPOSE in their order (R29 to R35), as equations, and the two removals that come before them.
-/

namespace Sys2Proof.Machine

open Sys2Proof

theorem exec_proposeArrival_of_hears {s : State} (h : s.hears) (sender : Station) (eid : EditId) (takeFrame : FrameNo)
    (target : Target) :
    exec (.proposeArrival sender eid takeFrame target) s = .next (s.goodReception.proposeArrives sender eid takeFrame target) :=
  congrArg Host.Outcome.next (State.arrive_of_hears _ h)

/-- R29: the arrivals that the admission ignores. -/
theorem State.proposeArrives_of_ignored {s : State} {sender : Station} {eid : EditId} {target : Target}
    (h : s.ctl.role = .leaving ∨ eid.proposer ≠ sender ∨ eid.proposer = s.cfg.station ∨ target.inRange = false)
    (takeFrame : FrameNo) : s.proposeArrives sender eid takeFrame target = s := by
  unfold State.proposeArrives
  rcases h with hrole | hrest
  · rw [hrole]
    rfl
  · split
    · rfl
    · exact if_pos (hrest.imp_right fun h => h.imp_right fun hr => by rw [hr]; rfl)

/-- R29 to R35: what is not ignored is judged after the supersede and the withdrawals. -/
theorem State.proposeArrives_of_judged {s : State} (hears : s.ctl.role.receives = true) (hrole : s.ctl.role ≠ .leaving)
    {sender : Station} {eid : EditId} {target : Target} (hid : eid.proposer = sender) (hother : sender ≠ s.cfg.station)
    (hrange : target.inRange = true) (takeFrame : FrameNo) :
    s.proposeArrives sender eid takeFrame target
      = ((s.supersede eid).withdrawUnsent target).admitProposal eid takeFrame target := by
  have hin : ¬ (s.ctl.role ≠ .listen ∧ s.ctl.role ≠ .align ∧ s.ctl.role ≠ .member) := by
    cases hr : s.ctl.role <;> simp_all [Role.receives]
  have hfault : ¬ (eid.proposer ≠ sender ∨ eid.proposer = s.own ∨ (!target.inRange) = true) := by
    rintro (h | h | h)
    · exact h hid
    · exact hother (hid.symm.trans h)
    · rw [hrange] at h
      cases h
  rw [State.proposeArrives, if_neg hin, if_neg hfault]

section
variable {s : State} {t : Target} {takeFrame : FrameNo}

/-- R32: a conflict comes before every other test. -/
theorem State.admitProposal_of_conflict (eid : EditId) (takeFrame : FrameNo)
    (h : ∃ k e, s.entryAt k = some e ∧ e.target.conflicts t = true) :
    s.admitProposal eid takeFrame t = s.rejectProposal eid .conflict :=
  if_pos (State.conflictHeld_eq_true.2 h)

/-- R33: the lead window comes after the conflict. -/
theorem State.admitProposal_of_lead (eid : EditId) (h : ∀ k e, s.entryAt k = some e → e.target.conflicts t = false)
    (hlead : frameDiff takeFrame s.timer.frame < 3 ∨ 256 < frameDiff takeFrame s.timer.frame) :
    s.admitProposal eid takeFrame t = s.rejectProposal eid .lead := by
  unfold State.admitProposal
  rw [if_neg (by rw [State.conflictHeld_eq_false.2 h]; exact Bool.false_ne_true)]
  exact if_pos hlead

/-- Past the conflict and the lead window the room decides (R34, R35). -/
theorem State.admitProposal_of_window (eid : EditId) (h : ∀ k e, s.entryAt k = some e → e.target.conflicts t = false)
    (hlow : 3 ≤ frameDiff takeFrame s.timer.frame) (hhigh : frameDiff takeFrame s.timer.frame ≤ 256) :
    s.admitProposal eid takeFrame t = if s.poolFree < t.reservation then s.rejectProposal eid .noRoom
      else match s.freeIndex with
        | some i => s.putEntry i (some (admittedEntry s.ctl.role eid takeFrame t))
        | none => s.rejectProposal eid .noRoom := by
  unfold State.admitProposal
  rw [if_neg (by rw [State.conflictHeld_eq_false.2 h]; exact Bool.false_ne_true)]
  exact if_neg fun hlead => hlead.elim (not_lt.2 hlow) (not_lt.2 hhigh)

/-- R34: no empty index or not enough of the pool. -/
theorem State.admitProposal_of_noRoom (eid : EditId) (h : ∀ k e, s.entryAt k = some e → e.target.conflicts t = false)
    (hlow : 3 ≤ frameDiff takeFrame s.timer.frame) (hhigh : frameDiff takeFrame s.timer.frame ≤ 256)
    (hroom : 16 ≤ s.entries.length ∨ s.poolFree < t.reservation) :
    s.admitProposal eid takeFrame t = s.rejectProposal eid .noRoom := by
  rw [State.admitProposal_of_window eid h hlow hhigh]
  split
  · rfl
  · next hpool =>
    have hfull : s.freeIndex = none := by
      have hnot := mt (State.freeIndex_isSome (s := s)).1 (not_lt.2 (hroom.resolve_right hpool))
      exact Option.not_isSome_iff_eq_none.1 hnot
    rw [hfull]

/-- R35: with room the entry comes to the lowest empty index. -/
theorem State.admitProposal_of_room (eid : EditId) (h : ∀ k e, s.entryAt k = some e → e.target.conflicts t = false)
    (hlow : 3 ≤ frameDiff takeFrame s.timer.frame) (hhigh : frameDiff takeFrame s.timer.frame ≤ 256)
    (hlength : s.entries.length < 16) (hpool : t.reservation ≤ s.poolFree) :
    ∃ k, s.freeIndex = some k
      ∧ s.admitProposal eid takeFrame t = s.putEntry k (some (admittedEntry s.ctl.role eid takeFrame t)) := by
  obtain ⟨k, hk⟩ := Option.isSome_iff_exists.1 (State.freeIndex_isSome.2 hlength)
  refine ⟨k, hk, ?_⟩
  rw [State.admitProposal_of_window eid h hlow hhigh, if_neg (not_lt.2 hpool), hk]

end

/-- The entry of an admitted proposal with its fields written out by the role and the kind of the target. -/
theorem admittedEntry_eq (role : Role) (eid : EditId) (takeFrame : FrameNo) (t : Target) :
    admittedEntry role eid takeFrame t =
      { id := eid, takeFrame := takeFrame, target := t, staged := List.replicate t.reservation none,
        received := if t.isPalette then some [] else none,
        holding := if role = .member then .voter else .observer,
        state := if t.isPalette then .collecting else if role = .member then .accepted else .complete,
        proposed := none, voters := none, pendingVoters := none, cursor := none,
        queryTries := if role = .member then some 0 else none, queryWait := none, late := false,
        deferred := false,
        owed := if t.isPalette = false ∧ role = .member then some ⟨.accept, 0⟩ else none } := by
  have howed : (if (!t.isPalette && decide (role = .member)) = true then some (⟨.accept, 0⟩ : Owed) else none)
      = if t.isPalette = false ∧ role = .member then some ⟨.accept, 0⟩ else none :=
    if_congr (by rw [Bool.and_eq_true, Bool.not_eq_true', decide_eq_true_eq]) rfl rfl
  exact congrArg (fun o => EditEntry.mk _ _ _ _ _ _ _ _ _ _ _ _ _ _ _ o) howed

theorem State.supersede_of_none {s : State} {eid : EditId} (h : s.findEntry eid = none) : s.supersede eid = s := by
  rw [State.supersede, h]

theorem State.supersede_of_some {s : State} {eid : EditId} {k : Nat} {e : EditEntry} (h : s.findEntry eid = some (k, e)) :
    s.supersede eid = s.dropEntry k e .superseded := by
  rw [State.supersede, h]

/-- R31: the own entries not yet proposed that a target conflicts with. -/
def EditEntry.unsentAgainst (t : Target) (e : EditEntry) : Bool :=
  decide (e.holding = .own) && decide (e.proposed = some false) && e.target.conflicts t

theorem EditEntry.unsentAgainst_iff {t : Target} {e : EditEntry} :
    e.unsentAgainst t = true ↔ e.holding = .own ∧ e.proposed = some false ∧ e.target.conflicts t = true := by
  simp only [EditEntry.unsentAgainst, Bool.and_eq_true, decide_eq_true_eq, and_assoc]

/-- The withdrawals are the drops of those entries. -/
theorem State.withdrawUnsent_eq (s : State) (t : Target) :
    s.withdrawUnsent t = s.forEntries fun i e s => if e.unsentAgainst t then s.dropEntry i e .conflict else s := by
  unfold State.withdrawUnsent
  congr 1
  funext i e u
  exact if_congr EditEntry.unsentAgainst_iff.symm rfl rfl

theorem State.refuse_of_new {s : State} {eid : EditId} (hlength : s.edit.refusals.length < 4)
    (hnew : ∀ r ∈ s.edit.refusals, r.id ≠ eid) (reason : Reason) :
    s.refuse eid reason = { s with edit := { s.edit with refusals := s.edit.refusals ++ [⟨eid, reason, 0⟩] } } :=
  if_pos ⟨hlength, List.all_eq_true.2 fun r hr => bne_iff_ne.2 (hnew r hr)⟩

theorem State.refuse_of_full {s : State} {eid : EditId}
    (h : 4 ≤ s.edit.refusals.length ∨ ∃ r ∈ s.edit.refusals, r.id = eid) (reason : Reason) : s.refuse eid reason = s := by
  refine if_neg fun ⟨hlength, hall⟩ => ?_
  rcases h with h | ⟨r, hr, heq⟩
  · exact not_lt.2 h hlength
  · exact bne_iff_ne.1 (List.all_eq_true.1 hall r hr) heq

end Sys2Proof.Machine

namespace Sys2Proof

open Sys2Proof.Machine

/-- Settles O38. -/
theorem admittedProposalCreatesAnEntry : Obligations.AdmittedProposalCreatesAnEntry := by
  refine ⟨fun sender eid takeFrame target s hs hrole hid hother hrange => ?_, fun u eid hidle => ⟨?_, fun k e h => ?_⟩,
    fun u target hidle => ?_⟩
  · intro u hconflict hlow hhigh hlength hpool
    have hwork : EditWork s.goodReception u := (EditWork.supersede _ eid).trans (EditWork.withdrawUnsent _ target)
    have harrive : s.goodReception.proposeArrives sender eid takeFrame target = u.admitProposal eid takeFrame target :=
      State.proposeArrives_of_judged (s := s.goodReception) hs.1 hrole hid hother hrange takeFrame
    clear_value u
    have hframes : u.timer = s.timer ∧ u.ctl = s.ctl := by
      obtain ⟨_, _, _, _, h⟩ := hwork.frame
      rw [h]
      exact ⟨rfl, rfl⟩
    obtain ⟨htimer, hctl⟩ := hframes
    rw [exec_proposeArrival_of_hears hs, harrive]
    rw [← htimer] at hlow hhigh
    obtain ⟨k, hk, hadmit⟩ := State.admitProposal_of_room eid hconflict hlow hhigh hlength hpool
    obtain ⟨hlt, hfree, hbelow⟩ := State.freeIndex_some hk
    refine ⟨k, hlt, hfree, hbelow, ?_⟩
    have hentry : admittedEntry u.ctl.role eid takeFrame target = admittedEntry s.ctl.role eid takeFrame target := by rw [hctl]
    rw [hadmit, hentry, admittedEntry_eq]
    rfl
  · exact State.supersede_of_none
  · obtain ⟨-, rfl⟩ := State.findEntry_some h
    exact (State.supersede_of_some h).trans (State.dropEntry_of_none u k e .superseded hidle)
  · obtain ⟨table, heq, hat⟩ := State.dropEach (EditEntry.unsentAgainst target) .conflict u hidle
    rw [← State.withdrawUnsent_eq] at heq
    refine ⟨table, heq, fun k => ?_⟩
    have hk := hat k
    rw [← State.withdrawUnsent_eq] at hk
    rw [hk]
    cases u.entryAt k with
    | none => rfl
    | some e => exact if_congr EditEntry.unsentAgainst_iff rfl rfl

/-- Settles O39. -/
theorem otherProposalsAreRefusedOrIgnored : Obligations.OtherProposalsAreRefusedOrIgnored := by
  refine ⟨fun sender eid takeFrame target s hs => ?_, fun u eid reason =>
    ⟨fun hlength hnew => State.refuse_of_new hlength hnew reason, fun h => State.refuse_of_full h reason⟩⟩
  intro r u ended
  have hwork : EditWork s.goodReception u := (EditWork.supersede _ eid).trans (EditWork.withdrawUnsent _ target)
  have hframes : u.timer = s.timer ∧ u.ctl = s.ctl ∧ u.catchUp.req.state = s.catchUp.req.state := by
    obtain ⟨_, _, _, _, h⟩ := hwork.frame
    rw [h]
    exact ⟨rfl, rfl, rfl⟩
  obtain ⟨htimer, hctl, hstate⟩ := hframes
  have hended : ∀ reason, u.rejectProposal eid reason = ended reason := fun reason => by
    have hmissed : u.noteMissed = if s.catchUp.req.state ≠ .idle then
        { u with catchUp := { u.catchUp with req := { u.catchUp.req with missed := true } } } else u := by
      rw [← hstate]
      exact if_congr State.catchingUp_iff rfl rfl
    rw [State.rejectProposal, hctl, hmissed]
  rw [exec_proposeArrival_of_hears hs]
  refine ⟨fun hignored => ?_, fun hrole hid hother hrange => ?_⟩
  · rw [State.proposeArrives_of_ignored (s := s.goodReception) hignored]
    rfl
  · have harrive : s.goodReception.proposeArrives sender eid takeFrame target = u.admitProposal eid takeFrame target :=
      State.proposeArrives_of_judged (s := s.goodReception) hs.1 hrole hid hother hrange takeFrame
    rw [harrive, ← htimer]
    refine ⟨fun hc => ?_, fun hc => ⟨fun hlead => ?_, fun hlow hhigh hroom => ?_⟩⟩
    · rw [State.admitProposal_of_conflict eid takeFrame hc, hended]
    · rw [State.admitProposal_of_lead eid hc hlead, hended]
    · rw [State.admitProposal_of_noRoom eid hc hlow hhigh hroom, hended]

end Sys2Proof

/-!
# The end of an attempt

What the transmitter read back, the three ends of an attempt (R148, R149), and what each does at the source of its message.
-/

namespace Sys2Proof.Machine

open Sys2Proof

/-- A bit sent dominant and read recessive. -/
theorem recessiveRead_iff (b c : Byte) :
    ((~~~b &&& c) != 0) = true ↔ ∃ j, j < 8 ∧ b.getLsbD j = false ∧ c.getLsbD j = true := by
  rw [bne_iff_ne]
  constructor
  · intro hne
    by_contra hall
    refine hne (BitVec.eq_of_getLsbD_eq fun j hj => ?_)
    rw [BitVec.getLsbD_and, BitVec.getLsbD_not]
    cases hb : b.getLsbD j <;> cases hc : c.getLsbD j <;> simp [hj]
    exact hall ⟨j, hj, hb, hc⟩
  · rintro ⟨j, hj, hb, hc⟩ h
    have hbit : (~~~b &&& c).getLsbD j = (0 : Byte).getLsbD j := congrArg (BitVec.getLsbD · j) h
    rw [BitVec.getLsbD_and, BitVec.getLsbD_not, hb, hc, decide_eq_true hj] at hbit
    cases hbit.trans BitVec.getLsbD_zero

/-- R148: the read-back fault looks at the bits after the key. -/
theorem readBackFault_iff (sent read : List Byte) : readBackFault sent read = true ↔
    ∃ (i j : Nat) (b c : Byte), 1 ≤ i ∧ sent[i]? = some b ∧ read[i]? = some c ∧ j < 8 ∧ b.getLsbD j = false
      ∧ c.getLsbD j = true := by
  rw [readBackFault, List.any_eq_true]
  constructor
  · rintro ⟨⟨b, c⟩, hmem, hbits⟩
    obtain ⟨k, hk⟩ := List.mem_iff_getElem?.1 hmem
    rw [List.getElem?_drop] at hk
    obtain ⟨hb, hc⟩ := List.getElem?_zip_eq_some.1 hk
    obtain ⟨j, hj, hsent, hread⟩ := (recessiveRead_iff b c).1 hbits
    exact ⟨1 + k, j, b, c, Nat.le_add_right 1 k, hb, hc, hj, hsent, hread⟩
  · rintro ⟨i, j, b, c, hi, hb, hc, hj, hsent, hread⟩
    refine ⟨(b, c), List.mem_iff_getElem?.2 ⟨i - 1, ?_⟩, (recessiveRead_iff b c).2 ⟨j, hj, hsent, hread⟩⟩
    rw [List.getElem?_drop, Nat.add_sub_cancel' hi]
    exact List.getElem?_zip_eq_some.2 ⟨hb, hc⟩

theorem exec_attemptCompletion_of_transmitting {s : State} {a : Transmission} (h : s.bus.attempt = some (.transmitting a))
    (c : Completion) :
    exec (.attemptCompletion c) s
      = .next ((s.endAttempt (ownDrive (readBackFault (a.message.bytes s.cfg.station) c.readBack))).completeAttempt a
          (windowResult c.window (readBackFault (a.message.bytes s.cfg.station) c.readBack))) := by
  show execAttemptCompletion c s = _
  rw [execAttemptCompletion, h]
  rfl

section
variable {a : Transmission} (hkept : a.withdrawn = false)
include hkept

/-- R148: a delivered attempt returns the abandon streak to 0 and is handed to the source. -/
theorem State.completeAttempt_of_delivered (s : State) {w : Window} (hw : w ≠ .void) :
    s.completeAttempt a w = ({ s with bus := { s.bus with abandonStreak := 0 } } : State).sourceDelivered a := by
  unfold State.completeAttempt
  cases w with
  | void => exact absurd rfl hw
  | heard | unheard => simp only [hkept, Bool.false_eq_true, if_false]

/-- R148: the first three voids leave the message owed. -/
theorem State.completeAttempt_of_retry (s : State) (h : a.number < 4) :
    s.completeAttempt a .void = s.sourceVoided a.source := by
  simp only [State.completeAttempt, h, if_true, hkept, Bool.false_eq_true, if_false]

/-- R149: the fourth void abandons the message; below the limit of the streak the source is told. -/
theorem State.abandon_of_streak (s : State) (h : s.bus.abandonStreak + 1 < 4) :
    s.abandon a = State.sourceAbandoned { s with
      bus := { s.bus with abandonStreak := s.bus.abandonStreak + 1 }
      events := joinQueue s.events
        ⟨.txAbandoned, s.timer.frame, messageRequester a.message, messageId a.message, none, none, false⟩ } a := by
  unfold State.abandon
  rw [if_neg fun hlimit => not_le.2 h hlimit.1, if_neg (by rw [hkept]; exact Bool.false_ne_true)]
  rfl

end

theorem State.completeAttempt_of_last (s : State) {a : Transmission} (h : a.number = 4) :
    s.completeAttempt a .void = s.abandon a :=
  if_neg (by rw [h]; exact Nat.lt_irrefl 4)

/-- R149: at the limit of the streak the station detaches. -/
theorem State.abandon_of_limit (s : State) (a : Transmission) (h : 4 ≤ s.bus.abandonStreak + 1)
    (hreceives : s.ctl.role.receives = true) :
    s.abandon a = State.detach { s with
      bus := { s.bus with abandonStreak := s.bus.abandonStreak + 1 }
      events := joinQueue s.events
        ⟨.txAbandoned, s.timer.frame, messageRequester a.message, messageId a.message, none, none, false⟩ } .transmit :=
  if_pos ⟨h, hreceives⟩

/-- R48, R55, R59, R65: what an abandoned message of an entry leaves owed. -/
theorem State.entryAbandoned_eq (s : State) (k : Nat) (e : EditEntry) (kind : MsgKind) :
    s.entryAbandoned k e kind = s.putEntry k (some { e with
      owed := if kind = .propose ∨ kind = .data ∨ kind = .accept then some ⟨kind, 0⟩ else none }) := by
  unfold State.entryAbandoned
  cases kind <;> rfl

/-- The state after a failed try with no attempt in flight, written out (R136). -/
theorem State.failedTry_of_idle {s : State} (hidle : s.bus.attempt = none) :
    (s.catchUp.req.tries + 1 < 4 → s.failedTry = { s with catchUp := { s.catchUp with
        buffer := emptyBuffer
        req := { s.catchUp.req with
          state := .asking, tries := s.catchUp.req.tries + 1, askWait := none, responder := none, header := none,
          received := [], receiveWait := none, owed := some ⟨.dumpRequest, 0⟩ } } })
    ∧ (4 ≤ s.catchUp.req.tries + 1 → s.failedTry = { s with
        catchUp := { s.catchUp with
          buffer := emptyBuffer
          req := { s.catchUp.req with
            state := .retryWait, tries := s.catchUp.req.tries + 1, askWait := none, responder := none, header := none,
            received := [], receiveWait := none, retryWait := some 64, owed := none } }
        events := joinQueue s.events ⟨.dumpFailed, s.timer.frame, none, none, none, none, false⟩ }) := by
  unfold State.failedTry
  rw [State.withdraw_of_none _ hidle]
  exact ⟨fun hlt => if_pos hlt, fun hge => if_neg (not_lt.2 hge)⟩

/-! ### Deliveries at the source -/

/-- The state after an attempt that was delivered: the bus is free, the streak at 0, and nothing is driven. -/
def State.afterDelivery (s : State) : State :=
  { s with bus := { s.bus with attempt := none, abandonStreak := 0, driven := .nothing } }

theorem exec_attemptCompletion_of_delivered {s : State} {a : Transmission} {readBack : List Byte} {w : Window}
    (hattempt : s.bus.attempt = some (.transmitting a)) (hkept : a.withdrawn = false)
    (hgood : readBackFault (a.message.bytes s.cfg.station) readBack = false) (hw : w ≠ .void) :
    exec (.attemptCompletion ⟨readBack, w⟩) s = .next (s.afterDelivery.sourceDelivered a) := by
  rw [exec_attemptCompletion_of_transmitting hattempt]
  dsimp only
  rw [hgood]
  exact congrArg Host.Outcome.next (State.completeAttempt_of_delivered hkept _ hw)

section
variable {u : State} {k : Nat} {x e : EditEntry} (hx : u.entryAt k = some x)
include hx

/-- R52: an entry put back awaits the vote while a voter is pending or the take frame is near. -/
theorem State.tryTake_putEntry_of_waits
    (hwaits : e.pendingVoters ≠ some [] ∨ frameDiff e.takeFrame u.timer.frame < 3) :
    ((u.putEntry k (some e)).tryTake k).entryAt k = some e := by
  have he : (u.putEntry k (some e)).entryAt k = some e := State.entryAt_putEntry_of_held hx _
  rw [State.tryTake_of_not_decided he]
  · exact he
  · rintro ⟨-, -, hpending, hlead⟩
    exact hwaits.elim (fun h => h hpending) (fun h => not_le.2 h hlead)

/-- R52: an own entry put back with no voter pending is taken while the take frame is far enough. -/
theorem State.tryTake_putEntry_of_decided (hidle : u.bus.attempt = none) (hown : e.holding = .own) (hstate : e.state = .awaiting)
    (hpending : e.pendingVoters = some []) (hlead : 3 ≤ frameDiff e.takeFrame u.timer.frame) :
    ((u.putEntry k (some e)).tryTake k).entryAt k = some { e with state := .taken, late := false, owed := some ⟨.take, 0⟩ }
    ∧ ((u.putEntry k (some e)).tryTake k).edit.outcomes = joinOutcomes u.edit.outcomes ⟨e.id, true, none, none⟩ := by
  have he : (u.putEntry k (some e)).entryAt k = some e := State.entryAt_putEntry_of_held hx _
  have hfree : (u.putEntry k (some e)).bus.attempt = none := hidle
  rw [State.tryTake_of_decided he ⟨hown, hstate, hpending, hlead⟩, State.enter_of_idle hfree,
    State.recordOutcome_of_none _ _ (by exact hidle)]
  exact ⟨State.entryAt_putEntry_of_held he _, rfl⟩

end

/-- R46 to R48: the entry of a delivered PROPOSE, before the vote is awaited. -/
def EditEntry.sent (e : EditEntry) (live : List Station) : EditEntry :=
  { e with proposed := some true, voters := some live, pendingVoters := some live }

theorem State.entryDelivered_propose_of_palette (u : State) (k : Nat) {e : EditEntry} (h : e.target.isPalette = true) :
    u.entryDelivered k e .propose
      = u.putEntry k (some { e.sent u.liveMembers with cursor := some 0, owed := some ⟨.data, 0⟩ }) :=
  if_pos h

theorem State.entryDelivered_propose_of_other (u : State) (k : Nat) {e : EditEntry} (h : e.target.isPalette = false) :
    u.entryDelivered k e .propose
      = (u.putEntry k (some { e.sent u.liveMembers with state := .awaiting, owed := none })).tryTake k :=
  if_neg (by rw [h]; exact Bool.false_ne_true)

theorem State.entryDelivered_data (u : State) (k : Nat) {e : EditEntry} {j : Nat} (h : e.cursor = some j) :
    u.entryDelivered k e .data = if j + 1 < e.target.fragments then
        u.putEntry k (some { e with cursor := some (j + 1), owed := some ⟨.data, 0⟩ })
      else (u.putEntry k (some { e with cursor := some (j + 1), state := .awaiting, owed := none })).tryTake k := by
  show (if e.cursor.getD 0 + 1 < e.target.fragments then _ else _) = _
  rw [h]
  rfl

theorem State.sourceDelivered_entry {u : State} {a : Transmission} {k : Nat} {e : EditEntry} (h : a.source = .entry k)
    (he : u.entryAt k = some e) : u.sourceDelivered a = u.entryDelivered k e a.message.kind := by
  rw [State.sourceDelivered, h]
  dsimp only
  rw [he]

theorem State.sourceDelivered_responder {u : State} {a : Transmission} (h : a.source = .responder) :
    u.sourceDelivered a = u.responderDelivered a.message.kind := by
  rw [State.sourceDelivered, h]

end Sys2Proof.Machine

namespace Sys2Proof

open Sys2Proof.Machine

/-- Settles O28. -/
theorem attemptsEndDeliveredRetriedOrAbandoned : Obligations.AttemptsEndDeliveredRetriedOrAbandoned := by
  refine ⟨readBackFault_iff, fun readBack s a hattempt hkept hreceives => ⟨fun hgood => ?_, fun w d hvoid => ?_⟩,
    fun u => ?_, fun u a => ?_⟩
  · rw [exec_attemptCompletion_of_transmitting hattempt, exec_attemptCompletion_of_transmitting hattempt]
    dsimp only
    rw [hgood]
    exact ⟨congrArg Host.Outcome.next (State.completeAttempt_of_delivered hkept _ (w := .heard) nofun),
      congrArg Host.Outcome.next ((State.completeAttempt_of_delivered hkept _ (w := .unheard) nofun).trans
        (State.completeAttempt_of_delivered hkept _ (w := .heard) nofun).symm)⟩
  · have hend : exec (.attemptCompletion ⟨readBack, w⟩) s = .next ((s.endAttempt d).completeAttempt a .void) := by
      rw [exec_attemptCompletion_of_transmitting hattempt]
      rcases hvoid with ⟨hfault, rfl⟩ | ⟨hgood, rfl, rfl⟩
      · dsimp only
        rw [hfault]
        rfl
      · dsimp only
        rw [hgood]
        rfl
    rw [hend]
    refine ⟨fun hlt => ?_, fun hlast hstreak => ?_, fun hlast hlimit => ?_⟩
    · exact congrArg Host.Outcome.next (State.completeAttempt_of_retry hkept _ hlt)
    · rw [State.completeAttempt_of_last _ hlast]
      exact congrArg Host.Outcome.next (State.abandon_of_streak hkept (s.endAttempt d) hstreak)
    · rw [State.completeAttempt_of_last _ hlast,
        State.abandon_of_limit (s.endAttempt d) a (ge_of_eq hlimit) hreceives]
      exact ⟨_, rfl, State.detach_role _ _, (State.detach_left _ _).wall, (State.detach_left _ _).streaks.2,
        (State.detach_left _ _).driven, (Keeps.detach _ _).cfg, (Keeps.detach _ _).clock.1⟩
  · intro voided
    refine ⟨rfl, rfl, fun r rest h => ?_, fun k e h => ?_, fun eid => rfl, rfl, rfl⟩
    · rw [State.sourceVoided, h]
      rfl
    · rw [State.sourceVoided, h]
      rfl
  · refine ⟨fun h => ?_, fun h => ?_, fun h => ?_, fun k e h he => ?_, fun eid h => ?_, fun h hidle => ?_, fun h => ?_⟩
    · rw [State.sourceAbandoned, h]
      rfl
    · have hleft := u.goOffline_left
      rw [State.sourceAbandoned, h]
      exact ⟨congrArg RoleControl.role hleft.ctl, congrArg RoleControl.farewell hleft.ctl, hleft.wall⟩
    · rw [State.sourceAbandoned, h]
      rfl
    · rw [State.sourceAbandoned, h]
      dsimp only
      rw [he]
      exact State.entryAbandoned_eq u k e a.message.kind
    · rw [State.sourceAbandoned, h]
      rfl
    · rw [State.sourceAbandoned, h]
      exact State.failedTry_of_idle hidle
    · rw [State.sourceAbandoned, h]
      rfl

/-- Settles O29. -/
theorem deliveredMessagesLeaveTheirSources : Obligations.DeliveredMessagesLeaveTheirSources := by
  intro readBack w s a hattempt hkept hgood hw
  refine ⟨_, exec_attemptCompletion_of_delivered hattempt hkept hgood hw, fun h => ?_, fun h => ?_, fun h => ?_,
    fun eid h => ?_, fun h => ?_, fun h hkind hend => ?_, fun h hkind hend => ?_, fun h hkind => ?_, fun h hkind => ?_,
    fun k e h he => ?_⟩
  · rw [State.sourceDelivered, h]
    exact ⟨rfl, rfl, rfl, rfl⟩
  · have hleft := s.afterDelivery.goOffline_left
    rw [State.sourceDelivered, h]
    exact ⟨congrArg RoleControl.role hleft.ctl, hleft.wall⟩
  · rw [State.sourceDelivered, h]
    rfl
  · rw [State.sourceDelivered, h]
    rfl
  · rw [State.sourceDelivered, h]
    rfl
  · rw [State.sourceDelivered_responder h, hkind]
    exact congrArg (fun t : State => t.catchUp.resp) (if_neg (by rw [show s.afterDelivery.catchUp.resp = s.catchUp.resp from rfl, hend]; exact Bool.false_ne_true))
  · rw [State.sourceDelivered_responder h, hkind]
    exact congrArg (fun t : State => t.catchUp.resp) (if_pos hend)
  · rw [State.sourceDelivered_responder h, hkind]
    rfl
  · rw [State.sourceDelivered_responder h, hkind]
    rfl
  · have hidle : s.afterDelivery.bus.attempt = none := rfl
    have hlive : s.afterDelivery.liveMembers = s.liveMembers := rfl
    have hheld : s.afterDelivery.entryAt k = some e := he
    rw [State.sourceDelivered_entry h hheld]
    refine ⟨fun hkind hpalette => ?_, fun hkind hother => ⟨fun hwaits => ?_, fun hlone hlead hown => ?_⟩, fun j hkind hcursor => ?_, fun hkind => ?_⟩
    · rw [hkind, State.entryDelivered_propose_of_palette _ _ hpalette]
      exact State.entryAt_putEntry_of_held hheld _
    · rw [hkind, State.entryDelivered_propose_of_other _ _ hother]
      exact State.tryTake_putEntry_of_waits hheld (hwaits.imp_left fun hne heq => hne (Option.some.inj heq))
    · rw [hkind, State.entryDelivered_propose_of_other _ _ hother, hlive, hlone]
      exact State.tryTake_putEntry_of_decided hheld hidle hown rfl rfl hlead
    · rw [hkind, State.entryDelivered_data _ _ hcursor]
      refine ⟨fun hmore => ?_, fun hlast => ⟨fun hwaits => ?_, fun hnone hlead hown => ?_⟩⟩
      · rw [if_pos hmore]
        exact State.entryAt_putEntry_of_held hheld _
      · rw [if_neg (not_lt.2 hlast)]
        exact State.tryTake_putEntry_of_waits hheld hwaits
      · rw [if_neg (not_lt.2 hlast)]
        exact State.tryTake_putEntry_of_decided hheld hidle hown rfl hnone hlead
    · have hend : s.afterDelivery.entryDelivered k e a.message.kind = s.afterDelivery.putEntry k (some { e with owed := none }) := by
        rcases hkind with hkind | hkind | hkind <;> rw [hkind] <;> rfl
      rw [hend]
      exact State.entryAt_putEntry_of_held hheld _

end Sys2Proof

/-!
# The start of an attempt

The start at an idle bus (R146), what the composed messages carry (R154, R159), and the check value as a sum (R3).
-/

namespace Sys2Proof.Machine

open Sys2Proof

theorem exec_attemptStart_of_offered {s : State} {src : Source} {o : Owed} {m : Message} (hidle : s.bus.attempt = none)
    (hoffered : s.offered = some (src, o)) (hcompose : s.compose src o.kind = some m) (rivals : List (List Byte)) :
    exec (.attemptStart rivals) s = .next (s.contend rivals src o m) := by
  show Host.Outcome.next (s.startAttempt rivals) = _
  rw [State.startAttempt, hidle, hoffered]
  dsimp only
  rw [hcompose]

/-- R146: no rival is dominant first. -/
theorem State.contend_of_winner (s : State) {rivals : List (List Byte)} {m : Message}
    (h : ∀ r ∈ rivals, dominates r (m.bytes s.cfg.station) = false) (src : Source) (o : Owed) :
    s.contend rivals src o m = s.beginAttempt src o m :=
  if_neg fun hany => by
    obtain ⟨r, hr, hdom⟩ := List.any_eq_true.1 hany
    exact Bool.false_ne_true ((h r hr).symm.trans hdom)

/-- R146: a rival is dominant first. -/
theorem State.contend_of_loser (s : State) {rivals : List (List Byte)} {m : Message}
    (h : ∃ r ∈ rivals, dominates r (m.bytes s.cfg.station) = true) (src : Source) (o : Owed) :
    s.contend rivals src o m = s.beginReception :=
  if_pos (List.any_eq_true.2 h)

/-- The state with an attempt begun, written as one change of the bus and one of the responder. -/
theorem State.beginAttempt_eq (s : State) (src : Source) (o : Owed) (m : Message) :
    s.beginAttempt src o m = { s with
      bus := { s.bus with
        attempt := some (.transmitting ⟨src, m, o.voids + 1, ownTime s.cfg s.timer, true, false⟩), gapSeen := true,
        driven := .nothing }
      catchUp := if o.kind = .dumpBegin then
          { s.catchUp with resp := { s.catchUp.resp with torn := false, windowOpen := true } }
        else s.catchUp } := by
  unfold State.beginAttempt
  dsimp only
  split <;> rfl

theorem State.compose_entry {s : State} {k : Nat} {e : EditEntry} (h : s.entryAt k = some e) (kind : MsgKind) :
    s.compose (.entry k) kind = e.compose kind := by
  rw [State.compose, h]
  rfl

theorem State.compose_outcome {s : State} {eid : EditId} {o : OutcomeEntry}
    (h : s.edit.outcomes.find? (fun o => decide (o.id = eid)) = some o) (kind : MsgKind) :
    s.compose (.outcome eid) kind = o.compose kind := by
  rw [State.compose, State.findOutcome, h]
  rfl

theorem State.compose_responder {s : State} {q : Station} (h : s.catchUp.resp.requester = some q) (kind : MsgKind) :
    s.compose .responder kind = s.composeDump q kind := by
  rw [State.compose, h]
  rfl

theorem length_fragmentOf {α : Type} (xs : List α) (j : Nat) : (fragmentOf xs j).length = min 5 (xs.length - 5 * j) := by
  rw [fragmentOf, List.length_take, List.length_drop]

theorem getElem?_fragmentOf {α : Type} (xs : List α) (j : Nat) {i : Nat} (h : i < 5) :
    (fragmentOf xs j)[i]? = xs[5 * j + i]? := by
  rw [fragmentOf, List.getElem?_take, if_pos h, List.getElem?_drop]

/-- The sum of the terms as a sum over the colours with their indices (R3). -/
theorem checkSum_eq (start : Nat) (cs : List Colour) :
    checkSum start cs = ((cs.zipIdx start).map fun x => 7 * x.2 + x.1.r.toNat + 3 * x.1.g.toNat + 5 * x.1.b.toNat).sum := by
  induction cs generalizing start with
  | nil => rfl
  | cons c cs ih =>
    rw [checkSum, ih, List.zipIdx_cons, List.map_cons, List.sum_cons]
    rfl

theorem checkValue_toNat (start : Nat) (cs : List Colour) : (checkValue start cs).toNat = checkSum start cs % 65536 := by
  rw [checkValue, BitVec.toNat_ofNat]
  exact Nat.mod_mod _ _

/-- The DATA of an entry carries the staged records of the fragment at its cursor. -/
theorem EditEntry.compose_data {e : EditEntry} {j : Nat} (h : e.cursor = some j) :
    e.compose .data = some (.data e.id (BitVec.ofNat 8 j) ((fragmentOf e.staged j).map recordOr)) := by
  show some (Message.data e.id (BitVec.ofNat 8 (e.cursor.getD 0)) ((fragmentOf e.staged (e.cursor.getD 0)).map recordOr)) = _
  rw [h]
  rfl

end Sys2Proof.Machine

namespace Sys2Proof

open Sys2Proof.Machine

/-- Settles O26. -/
theorem attemptsBeginWithTheOfferedMessage : Obligations.AttemptsBeginWithTheOfferedMessage := by
  refine ⟨fun rivals s src o m hidle hoffered hcompose => ⟨fun hwin => ?_, fun hlose => ?_⟩, fun s => ?_,
    fun start cs => ?_, rfl⟩
  · rw [exec_attemptStart_of_offered hidle hoffered hcompose, State.contend_of_winner s hwin]
    exact congrArg Host.Outcome.next (s.beginAttempt_eq src o m)
  · rw [exec_attemptStart_of_offered hidle hoffered hcompose, State.contend_of_loser s hlose]
    rfl
  · refine ⟨rfl, rfl, rfl, fun r rest h => ?_, fun k e h => ?_, fun eid o h => ⟨fun reason hreason => ?_, ?_⟩, fun q h => ?_⟩
    · rw [State.compose, h]
      rfl
    · refine ⟨State.compose_entry h _, State.compose_entry h _, State.compose_entry h _, State.compose_entry h _,
        fun j hj => ⟨_, (State.compose_entry h _).trans (EditEntry.compose_data hj), ?_, fun i c hi hc => ?_⟩⟩
      · rw [List.length_map, length_fragmentOf]
      · rw [List.getElem?_map, getElem?_fragmentOf _ _ hi, hc]
        rfl
    · rw [State.compose_outcome h]
      show some (Message.drop o.id ((o.reason.map Reason.code).getD 0)) = _
      rw [hreason]
      rfl
    · exact State.compose_outcome h _
    · refine ⟨State.compose_responder h _, ⟨_, State.compose_responder h _, ?_, fun i hi => ?_⟩, State.compose_responder h _⟩
      · rw [length_fragmentOf, State.paletteRecords, Vector.length_toList]
      · rw [getElem?_fragmentOf _ _ hi, State.paletteRecords, Vector.getElem?_toList]
  · rw [checkValue_toNat, checkSum_eq]

end Sys2Proof

/-!
# Active pixels and the layout of a frame

The output of an active pixel (R15, R167, R168), and the lines and clocks of a frame under its correction (R91).
-/

namespace Sys2Proof.Machine

open Sys2Proof

/-! ### The position of the scan -/

theorem State.reaches_iff {s : State} {line pixel : Nat} : s.reaches line pixel = true ↔
    s.timer.running = true ∧ (s.timer.line < line ∨ (s.timer.line = line ∧ s.timer.pixel ≤ pixel)) := by
  simp only [State.reaches, Bool.and_eq_true, Bool.or_eq_true, decide_eq_true_eq]

theorem activePixel_iff {c : ConfigRecord} {line pixel : Nat} :
    activePixel c line pixel = true ↔ line < c.height.toNat ∧ pixel < c.width.toNat := by
  rw [activePixel, Bool.and_eq_true, decide_eq_true_eq, decide_eq_true_eq]
  rfl

/-! ### The row of an active pixel -/

/-- A pixel that is output already, or that the scan has passed, is not output again. -/
theorem exec_activePixelScan_of_passed {s : State} {line pixel : Nat}
    (h : s.timer.running = false ∨ line < s.timer.line
      ∨ (s.timer.line = line ∧ (pixel < s.timer.pixel ∨ (s.timer.pixel = pixel ∧ s.pixel.scannedHere = true)))) :
    exec (.activePixelScan line pixel) s = .next s := by
  refine congrArg Host.Outcome.next ?_
  split
  · next hscan =>
    obtain ⟨hrunning, hposition⟩ := State.reaches_iff.1 hscan.2
    rcases h with hstopped | hpassed | ⟨hline, hpassed | ⟨hpixel, hscanned⟩⟩
    · rw [hstopped] at hrunning
      cases hrunning
    · omega
    · omega
    · rw [State.scanTo_self hline hpixel, State.outputPixel_of_scanned hscanned]
  · rfl

theorem exec_activePixelScan_of_reached {s : State} {line pixel : Nat} (hactive : activePixel s.cfg line pixel = true)
    (hreaches : s.reaches line pixel = true) :
    exec (.activePixelScan line pixel) s = .next ((s.scanTo line pixel).outputPixel line pixel) :=
  congrArg Host.Outcome.next (if_pos ⟨hactive, hreaches⟩)

/-- The state at a pixel that is about to be drawn, its output made. -/
def State.scanned (s : State) (line pixel : Nat) : State :=
  { s.scanTo line pixel with pixel := { (s.scanTo line pixel).pixel with scannedHere := true } }

theorem State.outputPixel_scanTo {s : State} {line pixel : Nat}
    (h : ¬ (s.timer.line = line ∧ s.timer.pixel = pixel ∧ s.pixel.scannedHere = true)) :
    (s.scanTo line pixel).outputPixel line pixel = (s.scanned line pixel).drawPixel line pixel := by
  refine if_neg fun hscanned => ?_
  obtain ⟨hstays, hhere⟩ := Bool.and_eq_true_iff.1 hscanned
  obtain ⟨hline, hpixel⟩ := of_decide_eq_true hstays
  exact h ⟨hline, hpixel, hhere⟩

section
variable {s : State} {line pixel : Nat}

/-- R167: nothing is shown while the show decision is false. -/
theorem State.drawPixel_of_dark (h : s.pixel.latched.showing = false) : s.drawPixel line pixel = s.show Colour.black :=
  if_neg (by rw [h]; exact Bool.false_ne_true)

theorem State.drawPixel_of_index (h : s.pixel.latched.showing = true) {index : Byte}
    (hindex : s.pixel.indexAt line pixel = some index) :
    s.drawPixel line pixel = s.show (outputColour s.pixel.latched index) := by
  rw [State.drawPixel, if_pos h, hindex]

/-- R168: an active pixel without an index is an underrun. -/
theorem State.drawPixel_of_empty (h : s.pixel.latched.showing = true) (hindex : s.pixel.indexAt line pixel = none) :
    s.drawPixel line pixel = { s with
      pixel := { s.pixel with rgb := Colour.black, underrun := true }
      events := if s.pixel.underrun then s.events
        else joinQueue s.events ⟨.pixelUnderrun, s.timer.frame, none, none, none, none, false⟩ } := by
  rw [State.drawPixel, if_pos h, hindex]
  dsimp only
  cases hunder : s.pixel.underrun with
  | true =>
    have hsame : (s.show Colour.black).pixel = { s.pixel with rgb := Colour.black, underrun := true } := by rw [← hunder]; rfl
    have hagain : (s.show Colour.black).underrun = s.show Colour.black := if_pos hunder
    rw [hagain, if_pos rfl, ← hsame]
    rfl
  | false => exact if_neg (fun hc => Bool.false_ne_true (hunder.symm.trans hc))

end

/-! ### The colour of a pixel -/

theorem outputColour_of_blank {lat : Latched} (h : lat.blank = true) (index : Byte) : outputColour lat index = ⟨0, 0, 0⟩ :=
  if_pos h

/-- A component under a level does not leave its ten bits (R15). -/
theorem scaleComponent_toNat (level : Byte) (x : BitVec 10) :
    (scaleComponent level x).toNat = x.toNat * (level.toNat + 1) / 256 := by
  have hx := x.isLt
  have hlevel := level.isLt
  have hle : x.toNat * (level.toNat + 1) ≤ 1023 * 256 := Nat.mul_le_mul (by omega) (by omega)
  rw [scaleComponent, BitVec.toNat_ofNat]
  omega

theorem outputColour_toNat {lat : Latched} (h : lat.blank = false) {index : Byte} {c : Colour}
    (hc : lat.palette[index.toNat]? = some c) :
    (outputColour lat index).r.toNat = c.r.toNat * (lat.level.toNat + 1) / 256
    ∧ (outputColour lat index).g.toNat = c.g.toNat * (lat.level.toNat + 1) / 256
    ∧ (outputColour lat index).b.toNat = c.b.toNat * (lat.level.toNat + 1) / 256 := by
  have hcolour : outputColour lat index
      = ⟨scaleComponent lat.level c.r, scaleComponent lat.level c.g, scaleComponent lat.level c.b⟩ := by
    rw [outputColour, if_neg (by rw [h]; exact Bool.false_ne_true), hc]
    rfl
  rw [hcolour]
  exact ⟨scaleComponent_toNat _ _, scaleComponent_toNat _ _, scaleComponent_toNat _ _⟩

/-! ### The layout of a frame -/

theorem frameClocks_eq (c : ConfigRecord) (t : Timer) :
    frameClocks c t = (((c.lineLength.toNat * c.lines.toNat : Nat) : Int) + t.correction).toNat := rfl

/-- The lines of a frame are its clocks in lines of L, rounded up (R91). -/
theorem frameLines_bounds (c : ConfigRecord) (t : Timer) (hl : 0 < c.lineLength.toNat) :
    frameClocks c t ≤ frameLines c t * c.lineLength.toNat
    ∧ frameLines c t * c.lineLength.toNat < frameClocks c t + c.lineLength.toNat := by
  have hlines : frameLines c t = (frameClocks c t + (c.lineLength.toNat - 1)) / c.lineLength.toNat := rfl
  have hdiv := Nat.div_add_mod (frameClocks c t + (c.lineLength.toNat - 1)) c.lineLength.toNat
  have hmod := Nat.mod_lt (frameClocks c t + (c.lineLength.toNat - 1)) hl
  rw [← hlines, Nat.mul_comm] at hdiv
  omega

theorem lineClocks_of_inner {c : ConfigRecord} {t : Timer} {line : Nat} (h : line + 1 < frameLines c t) :
    lineClocks c t line = c.lineLength.toNat :=
  if_neg (Nat.ne_of_lt h)

theorem lineClocks_of_last {c : ConfigRecord} {t : Timer} {line : Nat} (h : line + 1 = frameLines c t) :
    lineClocks c t line = frameClocks c t - line * c.lineLength.toNat :=
  if_pos h

end Sys2Proof.Machine

namespace Sys2Proof

open Sys2Proof.Machine

/-- Settles O50. -/
theorem activePixelsShowTheLatchedState : Obligations.ActivePixelsShowTheLatchedState := by
  refine ⟨fun line pixel s => ⟨exec_activePixelScan_of_passed, fun hrunning hheight hwidth hahead => ?_⟩,
    fun c t => ?_, fun s => ⟨?_, ?_, ?_⟩⟩
  · intro u
    have hreaches : s.reaches line pixel = true :=
      State.reaches_iff.2 ⟨hrunning, hahead.imp_right fun ⟨hline, hp⟩ => ⟨hline, hp.elim le_of_lt fun hp => le_of_eq hp.1⟩⟩
    have hfresh : ¬ (s.timer.line = line ∧ s.timer.pixel = pixel ∧ s.pixel.scannedHere = true) := by
      rintro ⟨hline, hpixel, hscanned⟩
      rcases hahead with hlt | ⟨-, hlt | ⟨-, hnot⟩⟩
      · omega
      · omega
      · rw [hscanned] at hnot
        cases hnot
    have hexec := exec_activePixelScan_of_reached (activePixel_iff.2 ⟨hheight, hwidth⟩) hreaches
    rw [hexec, State.outputPixel_scanTo hfresh]
    refine ⟨fun hdark => ?_, fun index c hshow hindex hc => ?_, fun hshow hempty => ?_⟩
    · exact congrArg Host.Outcome.next (State.drawPixel_of_dark (s := s.scanned line pixel) hdark)
    · refine ⟨_, rfl, ?_⟩
      rw [State.drawPixel_of_index (s := s.scanned line pixel) hshow hindex]
      exact ⟨rfl, fun hblank => outputColour_of_blank hblank index, fun hlit => outputColour_toNat hlit hc⟩
    · exact congrArg Host.Outcome.next (State.drawPixel_of_empty (s := s.scanned line pixel) hshow hempty)
  · dsimp only
    intro hl hclocks
    have hframe := Int.toNat_of_nonneg (le_of_lt hclocks)
    rw [← frameClocks_eq] at hframe
    obtain ⟨hupper, hlower⟩ := frameLines_bounds c t hl
    have hcast : (frameLines c t : Int) * (c.lineLength.toNat : Int) = ((frameLines c t * c.lineLength.toNat : Nat) : Int) := (Nat.cast_mul _ _).symm
    refine ⟨?_, ?_, fun line h => lineClocks_of_inner h, fun line h => ?_⟩
    · rw [Int.sub_mul, hcast, Int.one_mul]
      omega
    · rw [hcast]
      omega
    · rw [← h, Nat.add_mul, Nat.one_mul] at hlower
      rw [lineClocks_of_last h, ← hframe, Nat.cast_sub (by omega), Nat.cast_mul]
  · simp only [State.framePulse, Bool.and_eq_true, decide_eq_true_eq]
  · simp only [State.linePulse, Bool.and_eq_true, decide_eq_true_eq, tsub_le_iff_right]
    rfl
  · simp only [State.dataEnable, Bool.and_eq_true, activePixel_iff]

end Sys2Proof

/-!
# One pixel clock

The work of a clock as the rows of the table at its position, and what a clock that ends a frame leaves (logs 4, 37).
-/

namespace Sys2Proof.Machine

open Sys2Proof

/-! ### The work of a clock -/

/-- The rows at the position of the scan, done one after another from u, leave t, at which nothing is owed. -/
def State.clockRows (u t : State) : Prop := ∃ a b c,
  let cutDue := a.timer.pixel = a.cfg.width.toNat
    ∧ ∃ f, a.pixel.fetch = some f ∧ (a.pixel.buffer f.buffer).line = some a.timer.line
  exec (.fetchIssue u.timer.line) u = .next a
  ∧ (cutDue → exec .fetchCut a = .next b) ∧ (¬ cutDue → b = a)
  ∧ (b.pixel.requestedHere = false → exec .readRequestIssue b = .next c) ∧ (b.pixel.requestedHere = true → c = b)
  ∧ exec (.activePixelScan c.timer.line c.timer.pixel) c = .next t ∧ t.clockOwed = false

/-- The fetch in progress is that of the line that the scan leaves (R164). -/
def State.cutDue (s : State) : Prop :=
  s.timer.pixel = s.cfg.width.toNat ∧ ∃ f, s.pixel.fetch = some f ∧ (s.pixel.buffer f.buffer).line = some s.timer.line

theorem State.cutDue_iff {s : State} : s.cutDue ↔ s.timer.pixel = s.cfg.w ∧ s.pixel.fetchLine = some s.timer.line :=
  and_congr_right fun _ => PixelPath.fetchLine_eq_some.symm

theorem State.clockCut_of_due {s : State} (h : s.cutDue) : s.clockCut = { s with pixel := s.pixel.cut } :=
  if_pos (State.cutDue_iff.1 h)

theorem State.clockCut_of_not_due {s : State} (h : ¬ s.cutDue) : s.clockCut = s :=
  if_neg (mt State.cutDue_iff.2 h)

theorem exec_readRequestIssue_of_fresh {s : State} (h : s.pixel.requestedHere = false) :
    exec .readRequestIssue s = .next s.issueRead :=
  congrArg Host.Outcome.next (if_neg (by rw [h]; exact Bool.false_ne_true))

theorem exec_readRequestIssue_of_requested {s : State} (h : s.pixel.requestedHere = true) :
    exec .readRequestIssue s = .next s.requestNextClock :=
  congrArg Host.Outcome.next (if_pos h)

/-- The work of a clock of a running scan is that of the rows at its position. -/
theorem State.clockRows_clockWork {u : State} (hrunning : u.timer.running = true) : u.clockRows u.clockWork := by
  have hissue : u.clockIssue.timer = u.timer := by
    obtain ⟨p, h⟩ := u.clockIssue_eq
    rw [h]
  have hcut : u.clockIssue.clockCut.timer = u.timer := by
    obtain ⟨p, h⟩ := u.clockIssue.clockCut_eq
    rw [h, ← hissue]
  have hread : u.clockIssue.clockCut.issueRead.timer = u.timer := by
    obtain ⟨_, _, _, h⟩ := u.clockIssue.clockCut.issueRead_eq
    rw [h, ← hcut]
  refine ⟨u.clockIssue, u.clockIssue.clockCut, u.clockIssue.clockCut.issueRead, execFetchIssue_at_scan hrunning, fun hdue => ?_,
    State.clockCut_of_not_due, exec_readRequestIssue_of_fresh, State.issueRead_of_requested,
    execActivePixelScan_at_scan (by rw [hread]; exact hrunning), u.clockOwed_clockWork⟩
  exact execFetchCut_at_scan (by rw [hissue]; exact hrunning) (State.cutDue_iff.1 hdue)

/-! ### What a position owes -/

theorem State.dueFetch_isSome {s : State} {line : Nat} :
    (s.dueFetch line).isSome = true ↔ line + 1 < s.cfg.height.toNat ∨ line + 1 = frameLines s.cfg s.timer := by
  unfold State.dueFetch
  split
  · next h => exact ⟨fun _ => .inl h, fun _ => rfl⟩
  · next h =>
    split
    · next hlast => exact ⟨fun _ => .inr hlast, fun _ => rfl⟩
    · next hlast => exact ⟨nofun, fun hor => (hor.elim h hlast).elim⟩

theorem State.fetchOwed_isSome {s : State} : s.fetchOwed.isSome = true ↔ s.timer.pixel = 0 ∧ s.pixel.issuedHere = false
    ∧ (s.timer.line + 1 < s.cfg.height.toNat ∨ s.timer.line + 1 = frameLines s.cfg s.timer) := by
  unfold State.fetchOwed
  split
  · next h => rw [State.dueFetch_isSome, ← and_assoc, and_iff_right h]
  · next h => exact ⟨nofun, fun ⟨hpixel, hfresh, _⟩ => (h ⟨hpixel, hfresh⟩).elim⟩

theorem State.requestOwed_iff {s : State} : s.requestOwed = true ↔ s.timer.running = true ∧ s.pixel.requestedHere = false
    ∧ ∃ f y, s.pixel.fetch = some f ∧ (s.pixel.buffer f.buffer).line = some y ∧ f.issued < s.cfg.width.toNat := by
  rw [State.requestOwed, Bool.and_eq_true, State.nextRead_isSome, Bool.not_eq_true', and_assoc, and_comm (b := _ = false)]
  rfl

theorem State.pixelOwed_iff {s : State} : s.pixelOwed = true ↔
    s.timer.line < s.cfg.height.toNat ∧ s.timer.pixel < s.cfg.width.toNat ∧ s.pixel.scannedHere = false := by
  rw [State.pixelOwed, Bool.and_eq_true, activePixel_iff, Bool.not_eq_true', and_assoc]

theorem State.clockOwed_iff {s : State} : s.clockOwed = true ↔
    s.fetchOwed.isSome = true ∨ s.requestOwed = true ∨ s.pixelOwed = true := by
  rw [State.clockOwed, Bool.or_eq_true, Bool.or_eq_true, or_assoc]

/-! ### A clock moves the scan on -/

/-- The scan at a position where nothing is done yet. -/
def State.moved (s : State) (line pixel : Nat) : State :=
  { s with
    timer := { s.timer with line := line, pixel := pixel }
    pixel := { s.pixel with rgb := Colour.black, issuedHere := false, requestedHere := false, scannedHere := false } }

theorem State.nextPosition_ne {s : State} {line pixel : Nat} (h : s.nextPosition = some (line, pixel)) :
    ¬ (s.timer.line = line ∧ s.timer.pixel = pixel) := by
  rintro ⟨rfl, rfl⟩
  unfold State.nextPosition at h
  split at h
  · have hpixel : s.timer.pixel + 1 = s.timer.pixel := congrArg Prod.snd (Option.some.inj h)
    omega
  · split at h
    · have hline : s.timer.line + 1 = s.timer.line := congrArg Prod.fst (Option.some.inj h)
      omega
    · cases h

theorem State.scanTo_of_ne {s : State} {line pixel : Nat} (h : ¬ (s.timer.line = line ∧ s.timer.pixel = pixel)) :
    s.scanTo line pixel = s.moved line pixel := by
  rw [State.scanTo, decide_eq_false h]
  rfl

/-- A frame start that the scan raises keeps the record, the port, the queue and the running clock, which it sets to the start
of the next frame. -/
theorem State.frameStart_keeping (s : State) (order : List FrameWork) : Keeps s.advanceFrame (s.frameStart order).state := by
  refine State.frameStart_keeps (P := fun t => Keeps s.advanceFrame t) order (Keeps.refl _) (fun f hf t ht => ht.trans (hf.keeps t))
    fun t ht => ht.trans ?_
  exact ⟨rfl, rfl, rfl, rfl, rfl, ⟨rfl, rfl, rfl, rfl⟩, .inl rfl, id, id, id, id⟩

/-- The advance of the frame number leaves the record, the port and the queue. -/
theorem State.advanceFrame_outer (s : State) :
    s.advanceFrame.cfg = s.cfg ∧ s.advanceFrame.port = s.port ∧ s.advanceFrame.pending = s.pending := by
  unfold State.advanceFrame
  dsimp only
  split <;> exact ⟨rfl, rfl, rfl⟩

theorem exec_frameStart_of_running {s : State} (h : s.timer.running = true) (order : List FrameWork) :
    exec (.frameStart order) s = .next (s.frameStart order).state :=
  congrArg Host.Outcome.next (if_pos ⟨h, rfl⟩)

theorem step_of_empty {s : State} (h : s.pending = []) : step s = .next s.tick := by
  rw [step, h]

theorem State.tick_of_owed {s : State} (hrunning : s.timer.running = true) (h : s.clockOwed = true) : s.tick = s.clockWork := by
  rw [State.tick, if_pos hrunning, if_pos h]

theorem State.tick_of_done {s : State} (hrunning : s.timer.running = true) (h : s.clockOwed = false) :
    s.tick = s.advanceClock.clockWork := by
  rw [State.tick, if_pos hrunning, if_neg (by rw [h]; exact Bool.false_ne_true)]

end Sys2Proof.Machine

namespace Sys2Proof

open Sys2Proof.Machine

/-- Settles O3. -/
theorem emptyQueuePassesOnePixelClock : Obligations.EmptyQueuePassesOnePixelClock := by
  intro s hempty work
  rw [step_of_empty hempty]
  refine ⟨fun hstopped => ?_, ?_, rfl, fun hrunning howed => ?_, fun hrunning hdone => ?_⟩
  · exact congrArg Host.Outcome.next (if_neg (by rw [hstopped]; exact Bool.false_ne_true))
  · rw [State.clockOwed_iff, State.fetchOwed_isSome, State.requestOwed_iff, State.pixelOwed_iff]
  · rw [State.tick_of_owed hrunning howed]
    have hrows := State.clockRows_clockWork hrunning
    obtain ⟨p, ev, hwork⟩ := s.clockWork_eq
    refine ⟨_, rfl, hrows, ?_⟩
    rw [hwork]
    exact ⟨rfl, rfl, rfl, hempty, rfl, rfl, rfl, rfl, rfl, rfl, rfl⟩
  · rw [State.tick_of_done hrunning hdone]
    obtain ⟨p, ev, hwork⟩ := s.advanceClock.clockWork_eq
    cases hnext : s.nextPosition with
    | some position =>
      obtain ⟨line, pixel⟩ := position
      have hadvance : s.advanceClock = s.moved line pixel := by
        rw [State.advanceClock, hnext]
        exact State.scanTo_of_ne (State.nextPosition_ne hnext)
      have hrows : s.advanceClock.clockRows s.advanceClock.clockWork :=
        State.clockRows_clockWork (by rw [hadvance]; exact hrunning)
      refine ⟨_, _, rfl, hrows, ?_⟩
      rw [hwork, hadvance]
      refine ⟨rfl, rfl, hempty, fun l x hposition => ?_, nofun⟩
      cases hposition
      exact ⟨rfl, rfl, rfl, rfl, rfl, rfl, rfl, rfl, rfl⟩
    | none =>
      have hadvance : s.advanceClock = s.ownFrameStart := by rw [State.advanceClock, hnext]
      have hkeeps := s.frameStart_keeping (Config.freeFrameOrder s.freeCount)
      obtain ⟨hrun, hframe, hline, hpixel⟩ := hkeeps.clock
      rw [s.advanceFrame_timer] at hrun hframe hline hpixel
      have hrows : s.advanceClock.clockRows s.advanceClock.clockWork :=
        State.clockRows_clockWork (by rw [hadvance]; exact hrun.trans hrunning)
      refine ⟨_, _, rfl, hrows, ?_⟩
      rw [hwork, hadvance]
      obtain ⟨hcfg, hport, hpending⟩ := s.advanceFrame_outer
      refine ⟨hkeeps.cfg.trans hcfg, hkeeps.port.trans hport, (hkeeps.pending.trans hpending).trans hempty, nofun, fun _ => ⟨⟨_, _, exec_frameStart_of_running hrunning _, rfl⟩,
        hframe, hline, hpixel, rfl⟩⟩

end Sys2Proof

/-!
# Line fetches

The read requests and the answers of the fetch in progress (R164, R165), its issue and its cut, and the latch of a frame start
(R166).
-/

namespace Sys2Proof.Machine

open Sys2Proof

/-! ### Read requests and answers -/

/-- R164: the fetch in progress has a request left while the timer runs. -/
def State.requestLeft (s : State) : Prop := s.timer.running = true ∧ ∃ f y, s.pixel.fetch = some f
  ∧ (s.pixel.buffer f.buffer).line = some y ∧ f.issued < s.cfg.width.toNat

theorem State.issueRead_of_none_left {s : State} (h : ¬ s.requestLeft) : s.issueRead = s := by
  have hnone : s.nextRead = none := Option.not_isSome_iff_eq_none.1 (mt State.nextRead_isSome.1 h)
  unfold State.issueRead
  rw [hnone]
  exact ite_self s

theorem State.issueRead_of_left {s : State} {f : Fetch} {y : Nat} (hrunning : s.timer.running = true)
    (hfetch : s.pixel.fetch = some f) (hline : (s.pixel.buffer f.buffer).line = some y) (hleft : f.issued < s.cfg.width.toNat)
    (hfresh : s.pixel.requestedHere = false) :
    s.issueRead = { s with pixel := { s.pixel with
      requestedHere := true
      fetch := some { f with issued := f.issued + 1 }
      request := some (readAddress s.cfg (s.pixel.buffer f.buffer).panX (s.pixel.buffer f.buffer).panY f.issued y) } } := by
  have hnext : s.nextRead = some ({ f with issued := f.issued + 1 },
      readAddress s.cfg (s.pixel.buffer f.buffer).panX (s.pixel.buffer f.buffer).panY f.issued y) := by
    rw [State.nextRead, hfetch]
    dsimp only
    rw [hline]
    exact if_pos ⟨hrunning, hleft⟩
  unfold State.issueRead
  rw [if_neg (by rw [hfresh]; exact Bool.false_ne_true), hnext]

theorem exec_readAnswer_of_givenUp {s : State} (h : 0 < s.pixel.givenUp) (index : Byte) :
    exec (.readAnswer index) s = .next { s with pixel := { s.pixel with givenUp := s.pixel.givenUp - 1 } } :=
  congrArg Host.Outcome.next (if_pos h)

theorem exec_readAnswer_of_fetch {s : State} {f : Fetch} (h : s.pixel.givenUp = 0) (hfetch : s.pixel.fetch = some f)
    (hdue : f.answered < f.issued) (index : Byte) :
    exec (.readAnswer index) s = .next { s with pixel := s.pixel.fill f index s.cfg.w } := by
  show Host.Outcome.next (s.takeAnswer index) = _
  rw [State.takeAnswer, if_neg (by omega), hfetch]
  exact congrArg Host.Outcome.next (if_pos hdue)

/-- The buffer of a fetch with an answer in its next slot. -/
theorem PixelPath.fill_slots (p : PixelPath) (f : Fetch) (index : Byte) (width : Nat) :
    ((p.fill f index width).buffer f.buffer).slots = (p.buffer f.buffer).slots.set f.answered (some index) := by
  unfold PixelPath.fill
  dsimp only
  cases f.buffer <;> split <;> rfl

theorem PixelPath.fill_of_more (p : PixelPath) {f : Fetch} {width : Nat} (h : f.answered + 1 < width) (index : Byte) :
    (p.fill f index width).fetch = some { f with answered := f.answered + 1 } := by
  unfold PixelPath.fill
  dsimp only
  rw [if_neg (Nat.ne_of_lt h)]

theorem PixelPath.fill_of_last (p : PixelPath) {f : Fetch} {width : Nat} (h : f.answered + 1 = width) (index : Byte) :
    (p.fill f index width).fetch = p.queued.map (fun n => ⟨n, 0, 0⟩) ∧ (p.fill f index width).queued = none := by
  unfold PixelPath.fill
  dsimp only
  rw [if_pos h]
  exact ⟨congrArg (Option.map _) (p.setBuffer_rest f.buffer _).2.1, rfl⟩

/-- The next clock of the scan, where it has a request left. -/
theorem State.requestNextClock_of_next {s : State} {line pixel : Nat} (h : s.nextPosition = some (line, pixel)) :
    ((s.moved line pixel).clockCut.requestLeft → s.requestNextClock = (s.moved line pixel).clockCut.issueRead)
    ∧ (¬ (s.moved line pixel).clockCut.requestLeft → s.requestNextClock = s) := by
  unfold State.requestNextClock
  rw [h]
  dsimp only
  rw [State.scanTo_of_ne (State.nextPosition_ne h)]
  exact ⟨fun hleft => if_pos (State.nextRead_isSome.2 hleft), fun hnone => if_neg (mt State.nextRead_isSome.1 hnone)⟩

/-- The Pixel Path after a cut, written out. -/
theorem PixelPath.cut_eq (p : PixelPath) : p.cut = { p with
    fetch := p.queued.map fun n => ⟨n, 0, 0⟩
    queued := none
    givenUp := p.givenUp + match p.fetch with | some f => f.issued - f.answered | none => 0 } := by
  unfold PixelPath.cut PixelPath.nextFetch PixelPath.outstanding
  cases p.fetch <;> rfl

end Sys2Proof.Machine

namespace Sys2Proof

open Sys2Proof.Machine

/-- Settles O48. -/
theorem fetchesReadTheCanvasInOrder : Obligations.FetchesReadTheCanvasInOrder := by
  refine ⟨fun s f y hrunning hfetch hline => ⟨fun hleft hfresh => ?_, fun index h => exec_readAnswer_of_givenUp h index,
    fun index hgiven hdue _ => ?_⟩, fun s => ?_⟩
  · rw [exec_readRequestIssue_of_fresh hfresh, State.issueRead_of_left hrunning hfetch hline hleft hfresh]
    rfl
  · refine ⟨_, exec_readAnswer_of_fetch hgiven hfetch hdue index, s.pixel.fill_slots f index _,
      fun hmore => s.pixel.fill_of_more hmore index, fun hlast hqueued => ?_, fun n hlast hqueued => ?_, rfl, rfl, rfl, rfl⟩
    · exact (s.pixel.fill_of_last hlast index).1.trans (by rw [hqueued]; rfl)
    · exact ⟨(s.pixel.fill_of_last hlast index).1.trans (by rw [hqueued]; rfl), (s.pixel.fill_of_last hlast index).2⟩
  · intro left
    refine ⟨fun hfresh hnone => ?_, fun hrequested hend => ?_, fun line pixel hrequested hnext => ?_⟩
    · rw [exec_readRequestIssue_of_fresh hfresh, State.issueRead_of_none_left hnone]
    · rw [exec_readRequestIssue_of_requested hrequested, State.requestNextClock, hend]
    · intro u cutDue v hkeep hcut
      have hv : v = (s.moved line pixel).clockCut := by
        by_cases hdue : (s.moved line pixel).cutDue
        · rw [State.clockCut_of_due hdue, PixelPath.cut_eq]
          exact hcut hdue
        · rw [State.clockCut_of_not_due hdue]
          exact hkeep hdue
      have hfresh : v.pixel.requestedHere = false := by
        rw [hv]
        unfold State.clockCut
        split <;> rfl
      obtain ⟨hsome, hnone⟩ := State.requestNextClock_of_next hnext
      rw [← hv] at hsome hnone
      rw [exec_readRequestIssue_of_requested hrequested]
      refine ⟨fun h => ?_, fun h => congrArg Host.Outcome.next (hnone h)⟩
      rw [exec_readRequestIssue_of_fresh hfresh, hsome h]

end Sys2Proof

/-!
# The issue and the cut of line fetches, and the line-0 fetch at a latch

R164 and R166: the fetch issued at the start of a line, the cut behind pixel W − 1, and the reissue under a changed pan.
-/

namespace Sys2Proof.Machine

open Sys2Proof

/-! ### The issue -/

theorem exec_fetchIssue_of_not_due {s : State} {line : Nat} (h : s.dueFetch line = none) : exec (.fetchIssue line) s = .next s := by
  show execFetchIssue line s = _
  rw [execFetchIssue, h]

theorem exec_fetchIssue_of_due {s : State} {line y : Nat} (h : s.dueFetch line = some y) :
    exec (.fetchIssue line) s = .next (if s.reaches line 0 then s.issueAt line y else s) := by
  show execFetchIssue line s = _
  rw [execFetchIssue, h]

theorem State.dueFetch_of_next {s : State} {line : Nat} (h : line + 1 < s.cfg.height.toNat) :
    s.dueFetch line = some (line + 1) := if_pos h

theorem State.dueFetch_of_last {s : State} {line : Nat} (h : s.cfg.height.toNat ≤ line + 1)
    (hlast : line + 1 = frameLines s.cfg s.timer) : s.dueFetch line = some 0 :=
  (if_neg (not_lt.2 h)).trans (if_pos hlast)

theorem State.dueFetch_of_idle {s : State} {line : Nat} (h : s.cfg.height.toNat ≤ line + 1)
    (hlast : line + 1 ≠ frameLines s.cfg s.timer) : s.dueFetch line = none :=
  (if_neg (not_lt.2 h)).trans (if_neg hlast)

/-- A fetch issued at the position of the scan is not issued again (log 37). -/
theorem State.issueAt_of_issued {s : State} {line : Nat} (hline : s.timer.line = line) (hpixel : s.timer.pixel = 0)
    (h : s.pixel.issuedHere = true) (y : Nat) : s.issueAt line y = s := by
  unfold State.issueAt
  rw [State.scanTo_self hline hpixel]
  exact if_pos h

theorem State.issueAt_of_fresh {s : State} {line : Nat} (h : ¬ (s.timer.line = line ∧ s.timer.pixel = 0 ∧ s.pixel.issuedHere = true))
    (y : Nat) : s.issueAt line y = (s.scanTo line 0).issueFetch (s.pixel.spare line) y := by
  refine if_neg fun hissued => ?_
  obtain ⟨hstays, hhere⟩ := Bool.and_eq_true_iff.1 hissued
  obtain ⟨hline, hpixel⟩ := of_decide_eq_true hstays
  exact h ⟨hline, hpixel, hhere⟩

/-- Where the fetch due goes: its buffer empty under the wall's pan, begun at once or queued. -/
theorem State.issueFetch_spec (s : State) (n : BufferName) (y : Nat) :
    (s.issueFetch n y).pixel.buffer n = ⟨some y, s.wall.panX, s.wall.panY, List.replicate s.cfg.w none⟩
    ∧ (s.pixel.fetch = none → (s.issueFetch n y).pixel.fetch = some ⟨n, 0, 0⟩
        ∧ (s.issueFetch n y).pixel.queued = s.pixel.queued)
    ∧ (s.pixel.fetch ≠ none → (s.issueFetch n y).pixel.fetch = s.pixel.fetch ∧ (s.issueFetch n y).pixel.queued = some n) := by
  obtain ⟨hfetch, hqueued, -⟩ := s.pixel.setBuffer_rest n ⟨some y, s.wall.panX, s.wall.panY, List.replicate s.cfg.w none⟩
  unfold State.issueFetch
  dsimp only
  split
  · next h =>
    rw [hfetch] at h
    refine ⟨by cases n <;> rfl, fun hnone => ?_, fun _ => ⟨hfetch, rfl⟩⟩
    rw [hnone] at h
    cases h
  · next h =>
    rw [hfetch] at h
    exact ⟨by cases n <;> rfl, fun _ => ⟨rfl, hqueued⟩, fun hsome => (h (Option.isSome_iff_ne_none.2 hsome)).elim⟩

theorem PixelPath.spare_of_a {p : PixelPath} {line : Nat} (h : p.bufferA.line = some line) : p.spare line = .b := if_pos h

theorem PixelPath.spare_of_not_a {p : PixelPath} {line : Nat} (h : p.bufferA.line ≠ some line) : p.spare line = .a := if_neg h

/-! ### The cut -/

theorem exec_fetchCut_of_line {s : State} {y : Nat} (h : s.pixel.fetchLine = some y) (hreaches : s.reaches y s.cfg.w = true) :
    exec .fetchCut s = .next ({ s with pixel := s.pixel.cut }.scanTo y s.cfg.w) := by
  show execFetchCut s = _
  rw [execFetchCut, h]
  exact congrArg Host.Outcome.next (if_pos hreaches)

/-! ### The latch -/

theorem Role.transmits_eq (r : Role) :
    r.transmits = (decide (r = .align) || decide (r = .member) || decide (r = .leaving)) := by
  cases r <;> rfl

/-- The state after a latch at which the line-0 fetch stands. -/
def State.latched (s : State) : State :=
  { s with pixel := { s.pixel with
      latched := ⟨s.wall.palette, s.wall.panX, s.wall.panY, s.wall.level, s.wall.blank,
        (decide (s.ctl.role = .align) || decide (s.ctl.role = .member) || decide (s.ctl.role = .leaving)) && s.wall.valid⟩
      underrun := false, rgb := Colour.black, issuedHere := false, requestedHere := false, scannedHere := false } }

theorem State.latchFrame_eq (s : State) : s.latchFrame = { s.latched with pixel := s.latched.pixel.reissue s.cfg.w } := by
  have hlatch : s.latch = s.latched.pixel.latched := by
    rw [State.latch, State.showDecision, Role.transmits_eq]
    rfl
  unfold State.latchFrame
  dsimp only
  rw [hlatch]
  rfl

theorem PixelPath.holding_eq_none {p : PixelPath} {line : Nat} (h : ∀ n, (p.buffer n).line ≠ some line) : p.holding line = none :=
  (if_neg (h .a)).trans (if_neg (h .b))

theorem PixelPath.holding_eq_some {p : PixelPath} {line : Nat} {n : BufferName} (h : ∀ m, (p.buffer m).line = some line ↔ m = n) :
    p.holding line = some n := by
  cases n with
  | a => exact if_pos ((h .a).2 rfl)
  | b => exact (if_neg fun hc => nomatch (h .a).1 hc).trans (if_pos ((h .b).2 rfl))

theorem PixelPath.reissue_of_none {p : PixelPath} (h : p.holding 0 = none) (width : Nat) : p.reissue width = p := by
  rw [PixelPath.reissue, h]

theorem PixelPath.reissue_of_same {p : PixelPath} {n : BufferName} (h : p.holding 0 = some n)
    (hx : (p.buffer n).panX = p.latched.panX) (hy : (p.buffer n).panY = p.latched.panY) (width : Nat) : p.reissue width = p := by
  rw [PixelPath.reissue, h]
  exact if_pos ⟨hx, hy⟩

/-- The line-0 fetch issued again into its buffer (R166). -/
def PixelPath.reissued (p : PixelPath) (n : BufferName) (width : Nat) : PixelPath :=
  { p.setBuffer n ⟨some 0, p.latched.panX, p.latched.panY, List.replicate width none⟩ with
    fetch := some ⟨n, 0, 0⟩, queued := none, givenUp := p.givenUp + p.outstanding }

/-- A reissue writes the one buffer and the fetch, and counts the answers due. -/
theorem PixelPath.reissued_rest (p : PixelPath) (n : BufferName) (width : Nat) :
    (p.reissued n width).buffer n = ⟨some 0, p.latched.panX, p.latched.panY, List.replicate width none⟩
    ∧ (∀ m, m ≠ n → (p.reissued n width).buffer m = p.buffer m)
    ∧ (p.reissued n width).latched = p.latched ∧ (p.reissued n width).underrun = p.underrun
    ∧ (p.reissued n width).rgb = p.rgb ∧ (p.reissued n width).issuedHere = p.issuedHere
    ∧ (p.reissued n width).requestedHere = p.requestedHere ∧ (p.reissued n width).scannedHere = p.scannedHere
    ∧ (p.reissued n width).request = p.request := by
  refine ⟨by cases n <;> rfl, fun m hm => ?_, ?_⟩
  · have hbuffer : (p.reissued n width).buffer m
        = (p.setBuffer n ⟨some 0, p.latched.panX, p.latched.panY, List.replicate width none⟩).buffer m := by cases m <;> rfl
    rw [hbuffer, p.buffer_setBuffer_ne _ hm]
  · cases n <;> exact ⟨rfl, rfl, rfl, rfl, rfl, rfl, rfl⟩

theorem PixelPath.reissue_of_changed {p : PixelPath} {n : BufferName} (h : p.holding 0 = some n)
    (hpan : ¬ ((p.buffer n).panX = p.latched.panX ∧ (p.buffer n).panY = p.latched.panY)) (width : Nat) :
    p.reissue width = p.reissued n width := by
  rw [PixelPath.reissue, h]
  exact if_neg hpan

theorem PixelPath.outstanding_of_none {p : PixelPath} (h : p.fetch = none) : p.outstanding = 0 := by
  rw [PixelPath.outstanding, h]

theorem PixelPath.outstanding_of_some {p : PixelPath} {f : Fetch} (h : p.fetch = some f) :
    p.outstanding = f.issued - f.answered := by
  rw [PixelPath.outstanding, h]

end Sys2Proof.Machine

namespace Sys2Proof

open Sys2Proof.Machine

/-- Settles O49. -/
theorem lineFetchesAreIssuedAndCut : Obligations.LineFetchesAreIssuedAndCut := by
  refine ⟨fun line s => ⟨fun h => ?_, fun y hrunning hahead hdue => ?_⟩,
    fun s f y hrunning hfetch hheld hline hpixel => ?_, fun s => ?_⟩
  · cases hdue : s.dueFetch line with
    | none => exact exec_fetchIssue_of_not_due hdue
    | some y =>
      rw [exec_fetchIssue_of_due hdue]
      refine congrArg Host.Outcome.next ?_
      split
      · next hreaches =>
        obtain ⟨hrunning, hposition⟩ := State.reaches_iff.1 hreaches
        rcases h with hstopped | hpassed | ⟨hline, hpixel | hissued⟩ | ⟨hheight, hlast⟩
        · rw [hstopped] at hrunning
          cases hrunning
        · omega
        · omega
        · exact State.issueAt_of_issued hline (by omega) hissued y
        · rw [State.dueFetch_of_idle hheight hlast] at hdue
          cases hdue
      · rfl
  · have hfetchdue : s.dueFetch line = some y := by
      rcases hdue with ⟨hnext, rfl⟩ | ⟨hheight, hlast, rfl⟩
      · exact State.dueFetch_of_next hnext
      · exact State.dueFetch_of_last hheight hlast
    have hreaches : s.reaches line 0 = true :=
      State.reaches_iff.2 ⟨hrunning, hahead.imp_right fun ⟨hl, hp, _⟩ => ⟨hl, le_of_eq hp⟩⟩
    have hfresh : ¬ (s.timer.line = line ∧ s.timer.pixel = 0 ∧ s.pixel.issuedHere = true) := by
      rintro ⟨hl, -, hissued⟩
      rcases hahead with hlt | ⟨-, -, hnot⟩
      · omega
      · rw [hissued] at hnot
        cases hnot
    obtain ⟨hbuffer, hbegun, hqueued⟩ := (s.scanTo line 0).issueFetch_spec (s.pixel.spare line) y
    obtain ⟨p, hissue, -, -, hrgb, -, hissued, hrequested, hscanned⟩ :=
      (s.scanTo line 0).issueFetch_eq (s.pixel.spare line) y
    rw [exec_fetchIssue_of_due hfetchdue, if_pos hreaches, State.issueAt_of_fresh hfresh]
    refine ⟨_, s.pixel.spare line, rfl, PixelPath.spare_of_a, fun ha _ => PixelPath.spare_of_not_a ha, hbuffer, hbegun, hqueued, ?_⟩
    rw [hissue]
    refine ⟨hissued, fun hsame => ?_, fun hlt => ?_, rfl, rfl, rfl⟩
    · have hpixel : s.timer.pixel = 0 := by omega
      have hstays : (s.scanTo line 0).pixel = s.pixel := congrArg State.pixel (State.scanTo_self hsame hpixel)
      rw [hstays] at hrgb hscanned hrequested
      exact ⟨hrgb, hscanned, hrequested⟩
    · have hmoved := State.scanTo_of_ne (s := s) (line := line) (pixel := 0) (by omega)
      rw [hmoved] at hrgb hscanned hrequested
      exact ⟨hrgb, hscanned, hrequested⟩
  · have hfetchline : s.pixel.fetchLine = some y := PixelPath.fetchLine_eq_some.2 ⟨f, hfetch, hheld⟩
    have hreaches : s.reaches y s.cfg.w = true := State.reaches_iff.2 ⟨hrunning, .inr ⟨hline, hpixel⟩⟩
    rw [exec_fetchCut_of_line hfetchline hreaches, PixelPath.cut_eq, hfetch]
    refine ⟨_, rfl, ?_, rfl, rfl, rfl, rfl, rfl⟩
    rw [← hline]
    rfl
  · intro stands
    have hlatch : s.latchFrame = { stands with pixel := stands.pixel.reissue s.cfg.w } := s.latchFrame_eq
    refine ⟨fun hnone => ?_, fun n hunique => ?_⟩
    · rw [hlatch, PixelPath.reissue_of_none (PixelPath.holding_eq_none (p := stands.pixel) hnone)]
    · have hheld : stands.pixel.holding 0 = some n := PixelPath.holding_eq_some (p := stands.pixel) hunique
      refine ⟨fun hx hy => ?_, fun hpan => ?_⟩
      · rw [hlatch, PixelPath.reissue_of_same hheld hx hy]
      · rw [hlatch, PixelPath.reissue_of_changed hheld hpan]
        obtain ⟨hbuffer, hothers, hlatched, hunder, hrgb, hissued, hrequested, hscanned, hrequest⟩ :=
          stands.pixel.reissued_rest n s.cfg.w
        refine ⟨?_, hbuffer, hothers, rfl, rfl, fun hfetch => ?_, fun f hfetch => ?_, hunder, hrgb, hissued, hrequested,
          hscanned, hrequest⟩
        · rw [← hlatched]
        · exact congrArg (s.pixel.givenUp + ·) (PixelPath.outstanding_of_none (p := stands.pixel) hfetch)
        · exact congrArg (s.pixel.givenUp + ·) (PixelPath.outstanding_of_some (p := stands.pixel) hfetch)

end Sys2Proof

/-!
# The wall error and the adopt

The regimes of R99 to R101, the order of R105 read off the offset values, and the choice of a frame start (R95 to R98, R109).
-/

namespace Sys2Proof.Machine

open Sys2Proof

/-! ### The lock and the regimes -/

/-- Losing the lock sets the status and the counter, and posts LOCK-LOST at a station that was LOCKED (R103). -/
theorem State.loseLock_spec (s : State) (lock : Lock) :
    s.loseLock lock = { s with
      timer := { s.timer with lock := lock, lockCount := 0 }
      events := if s.timer.lock = .locked then
          joinQueue s.events ⟨.lockLost, s.timer.frame, none, none, none, none, false⟩ else s.events } := by
  unfold State.loseLock
  dsimp only
  split <;> rfl

theorem State.steer_of_coarse {s : State} {e : Int} (h : 4 * (s.cfg.l : Int) ≤ |e|) :
    s.steer e = (s.setCorrection (clamp (-s.cfg.shorteningLimit) s.cfg.p e)).loseLock .settling :=
  if_pos h

theorem State.steer_of_medium {s : State} {e : Int} (h : 16 ≤ |e|) (hc : |e| < 4 * (s.cfg.l : Int)) :
    s.steer e = (s.setCorrection (clamp (-(s.cfg.l : Int)) s.cfg.l (e.tdiv 2))).loseLock .settling :=
  (if_neg (not_le.2 hc)).trans (if_pos h)

theorem State.steer_of_fine {s : State} {e : Int} (h : |e| < 16) (hc : 16 ≤ 4 * (s.cfg.l : Int)) :
    s.steer e = ((s.setCorrection (e.tdiv 2)).stepTrim e).fineLock :=
  (if_neg (not_le.2 (lt_of_lt_of_le h hc))).trans (if_neg (not_le.2 h))

/-- R101: the trim moves by one toward the wall within its ten bits, and the lock, its counter and the correction stay. -/
theorem State.stepTrim_spec (s : State) (e : Int) :
    (s.stepTrim e).timer.trim.toNat = (if 0 < e then min 1023 (s.timer.trim.toNat + 1)
      else if e < 0 then s.timer.trim.toNat - 1 else s.timer.trim.toNat)
    ∧ (s.stepTrim e).timer.correction = s.timer.correction ∧ (s.stepTrim e).timer.lock = s.timer.lock
    ∧ (s.stepTrim e).timer.lockCount = s.timer.lockCount := by
  have htrim := s.timer.trim.isLt
  unfold State.stepTrim
  split
  · split
    · next hlimit => exact ⟨by rw [show (s.post .trimLimit).timer = s.timer from rfl, hlimit]; rfl, rfl, rfl, rfl⟩
    · next hlimit =>
      have hne : s.timer.trim.toNat ≠ 1023 := fun h => hlimit (BitVec.eq_of_toNat_eq h)
      refine ⟨?_, rfl, rfl, rfl⟩
      show (s.timer.trim + 1).toNat = _
      have hone : (1 : BitVec 10).toNat = 1 := rfl
      rw [BitVec.toNat_add, hone]
      omega
  · split
    · split
      · next hlimit => exact ⟨by rw [show (s.post .trimLimit).timer = s.timer from rfl, hlimit]; rfl, rfl, rfl, rfl⟩
      · next hlimit =>
        have hne : s.timer.trim.toNat ≠ 0 := fun h => hlimit (BitVec.eq_of_toNat_eq h)
        refine ⟨?_, rfl, rfl, rfl⟩
        show (s.timer.trim - 1).toNat = _
        have hone : (1 : BitVec 10).toNat = 1 := rfl
        rw [BitVec.toNat_sub, hone]
        omega
    · exact ⟨rfl, rfl, rfl, rfl⟩

/-- R102: the counter of FINE frame starts, and LOCKED at its eighth. -/
theorem State.fineLock_spec (s : State) :
    s.fineLock.timer.trim = s.timer.trim ∧ s.fineLock.timer.correction = s.timer.correction
    ∧ (s.timer.lockCount < 7 → s.fineLock.timer.lockCount = s.timer.lockCount + 1 ∧ s.fineLock.timer.lock = s.timer.lock)
    ∧ (7 ≤ s.timer.lockCount → s.fineLock.timer.lockCount = 8 ∧ s.fineLock.timer.lock = .locked) := by
  unfold State.fineLock
  split
  · next h => exact ⟨rfl, rfl, fun _ => ⟨rfl, rfl⟩, fun hge => absurd h (not_lt.2 hge)⟩
  · next h =>
    dsimp only
    split <;> exact ⟨rfl, rfl, fun hlt => absurd hlt h, fun _ => ⟨rfl, rfl⟩⟩

/-! ### Offsets -/

theorem forwardDistance_eq (p : Nat) (o : Offset) :
    forwardDistance p o = (match o.value with
      | .value v => (if v ≤ 0 then -v else 4294967296 * p - v).toNat
      | .farAhead | .farBehind => (((o.peer.frame - o.own.frame).toNat * p
          + ((o.peer.phase : Int) - (o.own.phase : Int))) % (4294967296 * p)).toNat) := by
  unfold forwardDistance
  cases o.value with
  | value v => exact (apply_ite Int.toNat _ _ _).symm
  | farAhead | farBehind => rfl

theorem Offset.candidate_iff {p : Nat} {o : Offset} :
    o.candidate p = true ↔ o.value = .farAhead ∨ ∃ v, o.value = .value v ∧ v ≤ -((p / 2 : Nat) : Int) := by
  unfold Offset.candidate
  cases o.value with
  | value v => simp
  | farAhead | farBehind => simp

theorem Offset.remaining_eq_some {p : Nat} {o : Offset} (v : Int) :
    o.remaining p = some v ↔ o.value = .value v ∧ -((p / 2 : Nat) : Int) < v ∧ v < ((p / 2 : Nat) : Int) := by
  unfold Offset.remaining
  cases o.value with
  | value u =>
    dsimp only
    split
    · next h => exact ⟨fun heq => by cases heq; exact ⟨rfl, h⟩, fun ⟨heq, _⟩ => by cases heq; rfl⟩
    · next h => exact ⟨nofun, fun ⟨heq, hr⟩ => by cases heq; exact (h hr).elim⟩
  | farAhead | farBehind => exact ⟨nofun, fun h => nomatch h.1⟩

/-- R105: the groups of the order, and the order within each. -/
theorem aheadOf_eq (p : Nat) (a b : Offset) : aheadOf p a b = (match a.value, b.value with
    | .farAhead, .farAhead | .farBehind, .farBehind => decide (forwardDistance p b < forwardDistance p a)
    | .value v, .value v' => decide (v < v')
    | .farAhead, _ | .value _, .farBehind => true
    | _, _ => false) := by
  unfold aheadOf aheadKey
  cases a.value <;> cases b.value <;> simp

/-! ### The choice of a frame start -/

/-- The entry of a station holds an offset that no frame start has used (R96). -/
def State.freshAt (s : State) (n : Nat) (o : Offset) : Prop :=
  ∃ x, s.peerAt n = some x ∧ x.state = .live ∧ x.offset = some o ∧ o.fresh = true

def State.memberAt (s : State) (n : Nat) : Prop := ∃ x, s.peerAt n = some x ∧ x.reported.map (·.role) = some .member

/-- R105: the offset ahead by most of those eligible, of the lowest station number among equals. -/
def aheadMost (p : Nat) (eligible : Nat → Offset → Prop) (n : Nat) (o : Offset) : Prop :=
  eligible n o ∧ ∀ m b, eligible m b → aheadOf p b o = false ∧ (aheadOf p o b = false → n ≤ m)

theorem aheadByMost_of_most {p : Nat} {xs : List (Nat × Offset)} {eligible : Nat → Offset → Prop} {n : Nat} {o : Offset}
    (hsorted : xs.Pairwise fun a b => a.1 < b.1) (hmem : ∀ m b, (m, b) ∈ xs ↔ eligible m b) (h : aheadMost p eligible n o) :
    aheadByMost p xs = some (n, o) := by
  obtain ⟨hin, hmost⟩ := h
  exact aheadByMost_eq hsorted ((hmem n o).2 hin) (fun y hy => (hmost y.1 y.2 ((hmem _ _).1 hy)).1)
    fun y hy => (hmost y.1 y.2 ((hmem _ _).1 hy)).2

theorem aheadByMost_of_none {p : Nat} {xs : List (Nat × Offset)} (h : ∀ m b, (m, b) ∉ xs) : aheadByMost p xs = none := by
  have hnil : xs = [] := List.eq_nil_iff_forall_not_mem.2 fun x => h x.1 x.2
  rw [hnil]
  rfl

theorem State.mem_fresh_contributors {s : State} (n : Nat) (o : Offset) :
    (n, o) ∈ freshOffsets s.contributors ↔ s.freshAt n o := by
  refine (State.mem_freshOffsets_live (f := fun x => x.state = .live)).trans (exists_congr fun x => ?_)
  rw [decide_eq_true_eq]

theorem State.mem_fresh_members {s : State} (n : Nat) (o : Offset) :
    (n, o) ∈ freshOffsets (s.peerList.filter fun x => x.2.liveMember) ↔ s.freshAt n o ∧ s.memberAt n := by
  refine (State.mem_freshOffsets_live (f := Peer.liveMember)).trans ⟨?_, ?_⟩
  · rintro ⟨x, hx, hmember, hoffset, hfresh⟩
    obtain ⟨hlive, hrole⟩ := Bool.and_eq_true_iff.1 hmember
    exact ⟨⟨x, hx, of_decide_eq_true hlive, hoffset, hfresh⟩, x, hx, of_decide_eq_true hrole⟩
  · rintro ⟨⟨x, hx, hlive, hoffset, hfresh⟩, y, hy, hrole⟩
    cases hx.symm.trans hy
    exact ⟨x, hx, Bool.and_eq_true_iff.2 ⟨decide_eq_true hlive, decide_eq_true hrole⟩, hoffset, hfresh⟩

theorem State.contributors_eq_nil {s : State} : s.contributors = [] ↔ ∀ n x, s.peerAt n = some x → x.state ≠ .live := by
  rw [State.contributors, List.filter_eq_nil_iff]
  exact ⟨fun h n x hx hlive => h (n, x) (State.mem_peerList.2 hx) (decide_eq_true hlive),
    fun h x hx hlive => h x.1 x.2 (State.mem_peerList.1 hx) (of_decide_eq_true hlive)⟩

/-- R96, R97: the remaining values as a list over the stations. -/
theorem State.remaining_values (s : State) (p : Nat) :
    (freshOffsets s.contributors).filterMap (fun x => x.2.remaining p)
      = (List.range 32).filterMap fun m => (s.peerAt m).bind fun x =>
          if x.state = .live then x.offset.bind fun o => if o.fresh then o.remaining p else none else none := by
  unfold freshOffsets State.contributors State.peerList
  rw [List.filterMap_filterMap, List.filterMap_filter, List.filterMap_filterMap]
  refine List.filterMap_congr fun m _ => ?_
  cases hpeer : s.peerAt m with
  | none => rfl
  | some x =>
    by_cases hlive : x.state = .live
    · cases hoffset : x.offset with
      | none => simp [hlive, hoffset]
      | some o => cases hfresh : o.fresh <;> simp [hlive, hoffset, hfresh]
    · simp [hlive]

/-- Every fresh offset of a LIVE entry is used (R96). -/
def usedOffsets (peers : Vector Peer 32) : Vector Peer 32 :=
  mapTable (fun x : Peer =>
    if x.state = .live then { x with offset := x.offset.map fun o => { o with fresh := false } } else x) peers

theorem State.useLiveOffsets_eq (s : State) : s.useLiveOffsets = { s with peers := usedOffsets s.peers } := rfl

/-- R109: the frame start in LISTEN with no peer to adopt. -/
theorem State.listenFrame_of_none {s : State} (h : ∀ n o, ¬ (s.freshAt n o ∧ s.memberAt n)) :
    s.listenFrame = ({ s with peers := usedOffsets s.peers, timer := { s.timer with correction := 0 } }, none) := by
  unfold State.listenFrame
  dsimp only
  rw [aheadByMost_of_none fun m b hm => h m b ((State.mem_fresh_members m b).1 hm)]
  rfl

/-- R109: the adopt in LISTEN. -/
theorem State.listenFrame_of_most {s : State} {n : Nat} {o : Offset}
    (h : aheadMost s.cfg.p (fun n o => s.freshAt n o ∧ s.memberAt n) n o) :
    s.listenFrame = ({ s with
      peers := usedOffsets s.peers
      timer := { s.timer with
        correction := (adoptForm s.cfg (forwardDistance s.cfg.p o)).1
        advance := some (adoptForm s.cfg (forwardDistance s.cfg.p o)).2 } }, some .listen) := by
  have hsorted := freshOffsets_sorted (s.peerList_sorted.filter fun x => x.2.liveMember)
  unfold State.listenFrame
  dsimp only
  rw [show s.cfg.p = ((s.setCorrection 0).useLiveOffsets).cfg.p from rfl] at h
  rw [aheadByMost_of_most hsorted State.mem_fresh_members h]
  rfl

/-- The state of a frame start that steers, before it finds the wall error (R96, R102). -/
def State.engaged (s : State) : State :=
  { s with
    peers := usedOffsets s.peers
    timer := { s.timer with correction := 0, lock := if s.timer.lock = .free then .settling else s.timer.lock } }

theorem Lock.engage_eq (l : Lock) : l.engage = if l = .free then .settling else l := by
  cases l <;> rfl

theorem Lock.engage_locked {l : Lock} : l.engage = .locked ↔ l = .locked := by
  cases l <;> simp [Lock.engage]

/-- R98: the renumber of a frame start. -/
theorem State.steerFrame_of_most {s : State} {n : Nat} {o : Offset}
    (h : aheadMost s.cfg.p (fun n o => s.freshAt n o ∧ o.candidate s.cfg.p = true) n o) :
    s.steerFrame = ({ s with
      peers := usedOffsets s.peers
      timer := { s.timer with
        correction := (adoptForm s.cfg (forwardDistance s.cfg.p o)).1
        advance := some (adoptForm s.cfg (forwardDistance s.cfg.p o)).2
        lock := .settling, lockCount := 0 }
      events :=
        let q := joinQueue s.events ⟨.renumbered, s.timer.frame, some (BitVec.ofNat 8 n), none, none, none, false⟩
        if s.timer.lock = .locked then
          joinQueue q ⟨.lockLost, s.timer.frame, none, none, none, none, false⟩ else q }, some .renumber) := by
  obtain ⟨⟨⟨x, hx, hlive, -, -⟩, -⟩, -⟩ := id h
  have hsome : s.contributors ≠ [] := fun hnil => State.contributors_eq_nil.1 hnil n x hx hlive
  have hmem : ∀ m b, (m, b) ∈ (freshOffsets s.contributors).filter (fun x => x.2.candidate s.cfg.p)
      ↔ s.freshAt m b ∧ b.candidate s.cfg.p = true := fun m b => by
    rw [List.mem_filter, State.mem_fresh_contributors]
  have hsorted : ((freshOffsets s.contributors).filter fun x => x.2.candidate s.cfg.p).Pairwise fun a b => a.1 < b.1 :=
    (freshOffsets_sorted (s.peerList_sorted.filter fun x => x.2.state = .live)).filter _
  rw [State.steerFrame_eq, aheadByMost_of_most hsorted hmem h]
  dsimp only
  rw [if_neg hsome, State.loseLock_spec]
  refine congrArg (·, some AdoptKind.renumber) ?_
  refine congrArg (fun ev => { s with
    peers := usedOffsets s.peers
    timer := { s.timer with
      correction := (adoptForm s.cfg (forwardDistance s.cfg.p o)).1
      advance := some (adoptForm s.cfg (forwardDistance s.cfg.p o)).2
      lock := .settling, lockCount := 0 }
    events := ev }) ?_
  exact if_congr Lock.engage_locked rfl rfl

/-- R98: a frame start without a contributor loses the lock. -/
theorem State.steerFrame_of_alone {s : State} (h : ∀ n x, s.peerAt n = some x → x.state ≠ .live) :
    s.steerFrame = ({ s with
      peers := usedOffsets s.peers
      timer := { s.timer with correction := 0, lock := .free, lockCount := 0 }
      events := if s.timer.lock = .locked then
          joinQueue s.events ⟨.lockLost, s.timer.frame, none, none, none, none, false⟩ else s.events }, none) := by
  have hnil := State.contributors_eq_nil.2 h
  rw [State.steerFrame_eq, hnil]
  dsimp only
  rw [if_pos rfl, State.loseLock_spec]
  rfl

/-- R97, R98: a frame start with a contributor and no candidate steers by the remaining offsets. -/
theorem State.steerFrame_of_contributor {s : State} {n : Nat} {x : Peer} (hx : s.peerAt n = some x) (hlive : x.state = .live)
    (hnone : ∀ m o, s.freshAt m o → o.candidate s.cfg.p = false) :
    s.steerFrame = (if (freshOffsets s.contributors).filterMap (fun x => x.2.remaining s.cfg.p) = [] then (s.engaged, none)
      else (s.engaged.steer (wallError ((freshOffsets s.contributors).filterMap fun x => x.2.remaining s.cfg.p)), none)) := by
  have hsome : s.contributors ≠ [] := fun hnil => State.contributors_eq_nil.1 hnil n x hx hlive
  have hcandidates : ∀ m b, (m, b) ∉ (freshOffsets s.contributors).filter (fun x => x.2.candidate s.cfg.p) := fun m b hm => by
    obtain ⟨hfresh, hcandidate⟩ := List.mem_filter.1 hm
    rw [hnone m b ((State.mem_fresh_contributors m b).1 hfresh)] at hcandidate
    cases hcandidate
  have hengaged : ((({ s with timer := { s.timer with lock := s.timer.lock.engage } } : State).setCorrection 0).useLiveOffsets)
      = s.engaged := by
    rw [Lock.engage_eq]
    rfl
  rw [State.steerFrame_eq, aheadByMost_of_none hcandidates]
  dsimp only
  rw [if_neg hsome, if_neg hsome, hengaged]

theorem wallError_eq (values : List Int) : wallError values = values.sum.tdiv (values.length + 1) := rfl

end Sys2Proof.Machine

namespace Sys2Proof

open Sys2Proof.Machine

/-- Settles O54. -/
theorem wallErrorChoosesTheRegime : Obligations.WallErrorChoosesTheRegime := by
  refine ⟨fun s e => ?_, fun p o => ⟨forwardDistance_eq p o, Offset.candidate_iff, Offset.remaining_eq_some⟩, aheadOf_eq,
    fun s => ?_⟩
  · dsimp only
    refine ⟨fun hcoarse => ?_, fun hmedium hbelow => ?_, fun hfine hline => ?_⟩
    · rw [State.steer_of_coarse (by exact hcoarse), State.loseLock_spec]
      exact ⟨rfl, rfl, rfl, rfl⟩
    · rw [State.steer_of_medium hmedium (by exact hbelow), State.loseLock_spec]
      exact ⟨rfl, rfl, rfl, rfl⟩
    · obtain ⟨htrim, hcorrection, hlock, hcount⟩ := (s.setCorrection (e.tdiv 2)).stepTrim_spec e
      obtain ⟨htrim', hcorrection', hmore, hlocked⟩ := ((s.setCorrection (e.tdiv 2)).stepTrim e).fineLock_spec
      rw [State.steer_of_fine hfine (by exact hline)]
      rw [hcount, hlock] at hmore
      rw [hcount] at hlocked
      exact ⟨hcorrection'.trans hcorrection, (congrArg BitVec.toNat htrim').trans htrim, hmore, hlocked⟩
  · intro p used fresh member most
    refine ⟨fun hrole => ?_, fun hrole => ?_, fun hrole => ?_⟩
    · rcases hrole with hrole | hrole <;> rw [State.timerWork, hrole] <;> rfl
    · have hwork : s.timerWork = s.listenFrame := by rw [State.timerWork, hrole]
      rw [hwork]
      exact ⟨State.listenFrame_of_none, fun n o h => State.listenFrame_of_most h⟩
    · have hwork : s.timerWork = s.steerFrame := by rcases hrole with hrole | hrole | hrole <;> rw [State.timerWork, hrole]
      rw [hwork]
      refine ⟨fun n o h => State.steerFrame_of_most h, State.steerFrame_of_alone, fun n x hx hlive hnone => ?_⟩
      intro quiet
      have hsteer := State.steerFrame_of_contributor hx hlive hnone
      refine ⟨fun hremaining => ?_, fun values hvalues heq => ?_⟩
      · have hnil : (freshOffsets s.contributors).filterMap (fun x => x.2.remaining s.cfg.p) = [] :=
          List.filterMap_eq_nil_iff.2 fun x hx => hremaining x.1 x.2 ((State.mem_fresh_contributors _ _).1 hx)
        rw [hsteer, if_pos hnil]
        rfl
      · have hlist : (freshOffsets s.contributors).filterMap (fun x => x.2.remaining s.cfg.p) = values :=
          (s.remaining_values s.cfg.p).trans heq.symm
        rw [hsteer, hlist, if_neg hvalues, wallError_eq]
        rfl

end Sys2Proof

/-!
# The pieces of a frame start: the Role Controller, the beacon holder and the renumber

What each piece of work of a frame start does to the state it finds (R94, R108, R117 to R126, R158).
-/

namespace Sys2Proof.Machine

open Sys2Proof

/-! ### The advance of the frame number -/

theorem State.advanceFrame_of_none {s : State} (h : s.timer.advance = none) : s.advanceFrame = { s with
    timer := { s.timer with frame := s.timer.frame + s.timer.advance.getD 1, advance := none, line := 0, pixel := 0 } } := by
  unfold State.advanceFrame
  exact if_neg (by rw [h]; exact Bool.false_ne_true)

theorem State.advanceFrame_of_some {s : State} (h : s.timer.advance ≠ none) : s.advanceFrame = State.adoptEffect { s with
    timer := { s.timer with frame := s.timer.frame + s.timer.advance.getD 1, advance := none, line := 0, pixel := 0 } } := by
  unfold State.advanceFrame
  exact if_pos (Option.isSome_iff_ne_none.2 h)

/-! ### The beacon holder -/

theorem State.inAttempt_iff {s : State} {src : Source} : s.inAttempt src = true ↔
    ∃ a, s.bus.attempt = some (.transmitting a) ∧ a.source = src ∧ a.withdrawn = false := by
  unfold State.inAttempt
  split
  · next a h => simp [h]
  · next h => exact ⟨nofun, fun ⟨a, ha, _⟩ => (h a ha).elim⟩

theorem State.inAttempt_eq_false {s : State} {src : Source}
    (h : ∀ a, s.bus.attempt = some (.transmitting a) → a.source = src → a.withdrawn = true) : s.inAttempt src = false := by
  rw [← Bool.not_eq_true, State.inAttempt_iff]
  rintro ⟨a, ha, hsource, hkept⟩
  rw [h a ha hsource] at hkept
  cases hkept

theorem State.oweBeacon_of_attempt {s : State} (h : s.inAttempt .beacon = true) :
    s.oweBeacon = { s with bus := { s.bus with renewal := true } } := if_pos h

theorem State.oweBeacon_of_free {s : State} (h : s.inAttempt .beacon = false) :
    s.oweBeacon = { s with bus := { s.bus with beacon := some ⟨.beacon, 0⟩ } } :=
  if_neg (by rw [h]; exact Bool.false_ne_true)

theorem State.beaconRenewal_of_transmits {s : State} (h : s.ctl.role = .align ∨ s.ctl.role = .member ∨ s.ctl.role = .leaving) :
    s.beaconRenewal = s.oweBeacon := if_pos (Role.transmits_iff.2 h)

theorem State.beaconRenewal_of_silent {s : State} (h : s.ctl.role = .offline ∨ s.ctl.role = .listen ∨ s.ctl.role = .detached) :
    s.beaconRenewal = s := by
  refine if_neg ?_
  rcases h with h | h | h <;> rw [h] <;> exact Bool.false_ne_true

/-- A withdrawal marks the attempt in flight and leaves its source. -/
theorem Bus.withdraw_sources {b : Bus} {src other : Source}
    (h : ∀ a, b.attempt = some (.transmitting a) → a.source ≠ other) :
    ∀ a, (b.withdraw src).attempt = some (.transmitting a) → a.source ≠ other := by
  intro a ha
  unfold Bus.withdraw at ha
  split at ha
  · next t ht =>
    split at ha
    · cases ha
      exact h t ht
    · exact h a ha
  · exact h a ha

/-! ### Catch-up starts, the responder's end, and the change out of MEMBER -/

/-- R132: a catch-up start writes the requester and the dump buffer, and marks the attempt of a request in flight. -/
theorem State.catchUpStart_eq (s : State) : ∃ buffer b,
    s.catchUpStart = { s with
      catchUp := { s.catchUp with req := s.catchUp.req.started, buffer := buffer }
      bus := b }
    ∧ (b = s.bus ∨ b = s.bus.withdraw .requester) := by
  unfold State.catchUpStart Requester.started
  split
  · exact ⟨_, _, rfl, .inr rfl⟩
  · exact ⟨_, _, rfl, .inl rfl⟩

/-- R144: what the responder becomes at a change out of MEMBER. -/
theorem State.endResponder_spec (s : State) : ∃ r b,
    s.endResponder = { s with catchUp := { s.catchUp with resp := r }, bus := b }
    ∧ (s.catchUp.resp.state = .idle → r = s.catchUp.resp)
    ∧ (s.catchUp.resp.state = .offering → s.bus.attempt = none → r = Responder.reset)
    ∧ (s.catchUp.resp.state = .sending → r.state = .sending ∧ r.cursor = 52 ∧ r.torn = true
        ∧ r.owed.map (·.kind) = some .dumpEnd) := by
  unfold State.endResponder
  dsimp only
  split
  · next h => exact ⟨_, _, rfl, fun _ => rfl, fun hc => (nomatch h.symm.trans hc), fun hc => (nomatch h.symm.trans hc)⟩
  · next h =>
    split
    · next ha =>
      refine ⟨_, _, rfl, fun hc => (nomatch h.symm.trans hc), fun _ hidle => ?_, fun hc => (nomatch h.symm.trans hc)⟩
      rw [State.inAttempt_of_none _ hidle] at ha
      cases ha
    · exact ⟨_, _, rfl, fun hc => (nomatch h.symm.trans hc), fun _ _ => rfl, fun hc => (nomatch h.symm.trans hc)⟩
  · next h =>
    split
    · next hend =>
      exact ⟨_, _, rfl, fun hc => (nomatch h.symm.trans hc), fun hc => (nomatch h.symm.trans hc), fun _ => ⟨h, rfl, rfl, hend⟩⟩
    · exact ⟨_, _, rfl, fun hc => (nomatch h.symm.trans hc), fun hc => (nomatch h.symm.trans hc), fun _ => ⟨h, rfl, rfl, rfl⟩⟩

/-- What the piece of ceasing to vote leaves besides the edit table. -/
structure CeasedRest (s t : State) : Prop where
  events : t.events = s.events
  refusals : t.edit.refusals = []
  outcomes : t.edit.outcomes = s.edit.outcomes
  catchUp : t.catchUp = s.catchUp

theorem CeasedRest.entry {s t : State} (h : CeasedRest s t) (i : Nat) (e : EditEntry) : CeasedRest s (ceaseVotingAt i e t) := by
  unfold ceaseVotingAt
  split
  · split
    · exact ⟨h.events, h.refusals, h.outcomes, h.catchUp⟩
    · exact ⟨h.events, h.refusals, h.outcomes, h.catchUp⟩
    · exact h
  · exact h

theorem ceaseVotingAt_entryAt_of_ne (i : Nat) (e : EditEntry) (t : State) (j : Nat) (h : j ≠ i) :
    (ceaseVotingAt i e t).entryAt j = t.entryAt j := by
  unfold ceaseVotingAt
  split
  · split
    · rw [State.entryAt_putEntry, if_neg fun hc => h hc.1.symm]
    · rw [State.enter, State.entryAt_putEntry, if_neg fun hc => h hc.1.symm]
      rfl
    · rfl
  · rfl

theorem ceaseVotingAt_entryAt_self {i : Nat} {e : EditEntry} {t : State} (h : t.entryAt i = some e) :
    (ceaseVotingAt i e t).entryAt i = some e.ceased := by
  have hlt := State.entryAt_lt h
  unfold ceaseVotingAt EditEntry.ceased
  by_cases hv : e.holding = .voter
  · rw [if_pos hv]
    cases hstate : e.state with
    | collecting => simp [hv, State.entryAt_putEntry_self hlt]
    | accepted => simp [hv, State.enter, State.entryAt_putEntry_self hlt]
    | _ => simp [h]
  · simp [hv, h]

/-- R40: what a station that ceases to vote leaves at the Edit Unit. -/
theorem State.ceaseVoting_spec (s : State) :
    s.ceaseVoting.events = s.events ∧ s.ceaseVoting.edit.refusals = [] ∧ s.ceaseVoting.catchUp = s.catchUp
    ∧ (∀ k, s.ceaseVoting.entryAt k = (s.entryAt k).map EditEntry.ceased)
    ∧ (s.bus.attempt = none → s.ceaseVoting.edit.outcomes = s.edit.outcomes.map fun o =>
        if o.owed.map (·.kind) = some .outcome then { o with owed := none } else o) := by
  have hrest : CeasedRest s (s.emptyRefusals.forEntries ceaseVotingAt) :=
    State.forEntries_induction (P := CeasedRest s) ⟨rfl, rfl, rfl, rfl⟩ fun i e t ht _ => ht.entry i e
  have hwork : EditWork s (s.emptyRefusals.forEntries ceaseVotingAt) :=
    EditWork.emptyRefusals.trans (EditWork.forEntries fun _ _ _ he => EditWork.ceaseVotingEntry he)
  have hentries : ∀ k, (s.emptyRefusals.forEntries ceaseVotingAt).entryAt k = (s.entryAt k).map EditEntry.ceased := fun k => by
    have hat : _ = (s.entryAt k).bind fun e => some e.ceased := State.entryAt_forEntries_bind (f := ceaseVotingAt) (g := fun _ e => some e.ceased) (P := fun _ => True)
      (s := s.emptyRefusals) trivial (fun _ _ _ => id) ceaseVotingAt_entryAt_of_ne (fun i e t _ he => ceaseVotingAt_entryAt_self he) k
    rw [hat]
    cases s.entryAt k <;> rfl
  unfold State.ceaseVoting
  dsimp only
  generalize s.emptyRefusals.forEntries ceaseVotingAt = u at hrest hwork hentries
  refine ⟨hrest.events, hrest.refusals, hrest.catchUp, hentries, fun hidle => ?_⟩
  rw [hrest.outcomes]
  refine List.map_congr_left fun o _ => ?_
  unfold State.withdrawAnswer
  rw [State.inAttempt_of_none _ (hwork.idle hidle)]
  exact if_congr (and_iff_left rfl) rfl rfl

/-- The change of a member to ALIGN (R122, R124, R126). -/
theorem State.turnToAlign_turned (s : State) : s.turned s.turnToAlign := by
  have hwork := EditWork.ceaseVoting (s.setRole .align).restartWait
  obtain ⟨hevents, hrefusals, hcatchUp, hentries, houtcomes⟩ := ((s.setRole .align).restartWait).ceaseVoting_spec
  unfold State.turnToAlign State.leaveMember
  generalize ((s.setRole .align).restartWait).ceaseVoting = u at hwork hevents hrefusals hcatchUp hentries houtcomes
  obtain ⟨r, b, hend, hidle, hoffering, hsending⟩ := u.clearVerdicts.endResponder_spec
  obtain ⟨buffer, b', hstart, -⟩ := u.clearVerdicts.endResponder.restartCounts.catchUpStart_eq
  rw [hstart, hend]
  have hresp : u.clearVerdicts.catchUp.resp = s.catchUp.resp := congrArg CatchUp.resp hcatchUp
  rw [hresp] at hidle hoffering hsending
  have hfree : s.bus.attempt = none → u.clearVerdicts.bus.attempt = none := hwork.idle
  obtain ⟨_, _, _, _, hframe⟩ := hwork.frame
  have hctl : u.ctl = { s.ctl with role := .align, foundingWait := 0 } := by
    rw [hframe]
    rfl
  have hreq : u.catchUp.req.started = s.catchUp.req.started := congrArg (fun c : CatchUp => c.req.started) hcatchUp
  refine ⟨?_, hevents, hentries, hrefusals, houtcomes, ?_, hreq, hidle,
    fun ho ha => hoffering ho (hfree ha), hsending, ?_⟩
  · show { u.ctl with strikes := 0, ties := 0, split := .armed } = _
    rw [hctl]
  · show mapTable _ u.peers = _
    rw [hframe]
    rfl
  · show u.wall = _ ∧ u.timer = _ ∧ u.pixel = _ ∧ u.cfg = _ ∧ u.port = _
    rw [hframe]
    exact ⟨rfl, rfl, rfl, rfl, rfl⟩

/-- R124: the stale move of a member. -/
theorem State.turnStale_turned (s : State) : State.turned { s with
      ctl := { s.ctl with stale := true }
      events := joinQueue s.events ⟨.stale, s.timer.frame, none, none, none, none, false⟩ } s.turnStale :=
  State.turnToAlign_turned ((s.setStale true).post .stale)

/-! ### The verdicts -/

theorem length_filter_filterMap {α β : Type} (g : α → Option β) (p : β → Bool) (q : α → Bool) (xs : List α)
    (h : ∀ x ∈ xs, q x = (g x).any p) : ((xs.filterMap g).filter p).length = (xs.filter q).length := by
  induction xs with
  | nil => rfl
  | cons x xs ih =>
    have hrest := ih fun y hy => h y (List.mem_cons_of_mem x hy)
    have hx := h x List.mem_cons_self
    rw [List.filterMap_cons, List.filter_cons]
    cases hg : g x with
    | none => simpa [hx, hg] using hrest
    | some y =>
      rw [hg, Option.any_some] at hx
      cases hp : p y <;> simp [hx, hp, hrest]

/-- The verdicts of the other stations, counted over the table (R123). -/
theorem State.verdicts_eq (s : State) (v : Verdict) : s.verdicts v = ((List.range 32).filter fun n =>
    n != s.cfg.station.toNat && decide ((s.peers[n]?.map (·.verdict)) = some v)).length := by
  refine length_filter_filterMap _ _ _ _ fun n _ => ?_
  unfold State.peerAt State.own
  by_cases hown : n = s.cfg.station.toNat
  · simp [hown]
  · cases s.peers[n]? <;> simp [hown]

theorem State.verdictWork_of_member {s : State} (h : s.ctl.role = .member) :
    s.verdictWork = s.clearVerdicts.countVerdicts (s.verdicts .agree) (s.verdicts .differ) := if_pos h

theorem State.verdictWork_of_other {s : State} (h : s.ctl.role ≠ .member) : s.verdictWork = s.clearVerdicts := if_neg h

section
variable {s : State} {a d : Nat}

/-- R124: the first strike. -/
theorem State.countVerdicts_of_strike (h : a + 1 < d) (hfirst : s.ctl.strikes + 1 < 2) :
    s.countVerdicts a d = { s with ctl := { s.ctl with strikes := s.ctl.strikes + 1, ties := 0 } } :=
  (if_pos h).trans (if_neg (not_le.2 hfirst))

/-- R124: the second strike. -/
theorem State.countVerdicts_of_stale (h : a + 1 < d) (hsecond : 2 ≤ s.ctl.strikes + 1) :
    s.countVerdicts a d
      = State.turnStale { s with ctl := { s.ctl with strikes := s.ctl.strikes + 1, ties := 0 } } :=
  (if_pos h).trans (if_pos hsecond)

/-- R125: a tie, whose second posts VERSION-SPLIT while the latch is ARMED. -/
theorem State.countVerdicts_of_tie (h : d = a + 1) :
    s.countVerdicts a d = { s with
      ctl := { s.ctl with
        strikes := 0, ties := min 2 (s.ctl.ties + 1), split := if 2 ≤ s.ctl.ties + 1 then .fired else s.ctl.split }
      events := if 2 ≤ s.ctl.ties + 1 ∧ s.ctl.split = .armed then
          joinQueue s.events ⟨.versionSplit, s.timer.frame, none, none, none, none, false⟩
        else s.events } := by
  have htie : s.countVerdicts a d = s.countTie := (if_neg (by omega)).trans (if_pos ⟨by omega, h⟩)
  rw [htie]
  unfold State.countTie
  dsimp only
  by_cases hties : 2 ≤ s.ctl.ties + 1
  · cases hsplit : s.ctl.split with
    | armed =>
      rw [if_pos ⟨hties, rfl⟩, if_pos hties, if_pos ⟨hties, rfl⟩]
      rfl
    | fired =>
      have hnot : ¬ (2 ≤ s.ctl.ties + 1 ∧ SplitLatch.fired = .armed) := nofun
      rw [if_neg hnot, if_pos hties, if_neg hnot]
  · rw [if_neg (fun h => hties h.1), if_neg hties, if_neg (fun h => hties h.1)]

theorem State.countVerdicts_of_clear (h : d = 0) :
    s.countVerdicts a d = { s with ctl := { s.ctl with strikes := 0, ties := 0, split := .armed } } :=
  (if_neg (by omega)).trans ((if_neg (by omega)).trans (if_pos h))

theorem State.countVerdicts_of_minority (hlow : 1 ≤ d) (hhigh : d < a + 1) :
    s.countVerdicts a d = { s with ctl := { s.ctl with strikes := 0, ties := 0 } } :=
  (if_neg (by omega)).trans ((if_neg (by omega)).trans (if_neg (by omega)))

end

/-! ### Promotion, the adopt in LISTEN, and the renumber -/

theorem State.promotes_iff {s : State} : s.promotes = true ↔ s.ctl.role = .align ∧ s.wall.valid = true
    ∧ s.ctl.stale = false ∧ s.catchUp.req.state = .idle ∧ s.timer.lock = .locked := by
  have hidle : s.catchingUp = false ↔ s.catchUp.req.state = .idle := by
    rw [State.catchingUp_eq_decide, decide_eq_false_iff_not, not_not]
  simp only [State.promotes, Bool.and_eq_true, Bool.not_eq_true', decide_eq_true_eq, hidle, and_assoc]

theorem State.promotion_eq (s : State) : s.promotion = (if s.ctl.role = .align ∧ s.wall.valid = true ∧ s.ctl.stale = false
      ∧ s.catchUp.req.state = .idle ∧ s.timer.lock = .locked then
    { s with
      ctl := { s.ctl with role := .member, foundingWait := 0, strikes := 0, ties := 0, split := .armed }
      events := joinQueue s.events ⟨.roleChanged, s.timer.frame, none, none, none, some .member, false⟩ }
    else s) :=
  if_congr State.promotes_iff rfl rfl

/-- R119: the adopt decided in LISTEN. -/
theorem State.listenToAlign_eq (s : State) : ∃ buffer b, s.listenToAlign = State.oweBeacon { s with
      ctl := { s.ctl with role := .align, foundingWait := 0 }
      catchUp := { s.catchUp with req := s.catchUp.req.started, buffer := buffer }
      bus := b
      events := joinQueue s.events ⟨.roleChanged, s.timer.frame, none, none, none, some .align, false⟩ }
    ∧ (b = s.bus ∨ b = s.bus.withdraw .requester) := by
  obtain ⟨buffer, b, h, hb⟩ := ((s.setRole .align).restartWait).catchUpStart_eq
  exact ⟨buffer, b, congrArg State.oweBeacon h, hb⟩

/-- Owing a beacon touches the Bus Interface alone. -/
theorem State.oweBeacon_eq (s : State) : ∃ b, s.oweBeacon = { s with bus := b } := by
  unfold State.oweBeacon
  split <;> exact ⟨_, rfl⟩

/-! ### The renumber's drop -/

theorem State.dropAll_outcomes (s : State) (r : Reason) : (s.dropAll r).edit.outcomes = s.edit.outcomes := by
  unfold State.dropAll
  refine State.forEntries_induction (P := fun t => t.edit.outcomes = s.edit.outcomes) rfl fun i e t ht _ => ?_
  exact ht

theorem State.dropAll_events (s : State) (r : Reason) :
    (s.dropAll r).events = s.entries.foldl (fun q x => joinQueue q
      ⟨.editDropped, s.timer.frame, none, some x.2.id, some r, none, false⟩) s.events := by
  have h := State.events_forEntries (f := fun i e s => s.dropEntry i e r) (s := s) (fun _ => true)
    (fun frame e => ⟨.editDropped, frame, none, some e.id, some r, none, false⟩) (fun _ _ _ => rfl)
    (fun i e t j hj => t.entryAt_dropEntry_of_ne hj e r none) fun _ _ _ => rfl
  rwa [List.filter_true] at h

/-! ### The pieces as functions of the state -/

theorem FrameRun.work_editRenumber (x : FrameRun) : (x.work .editRenumber).state
    = (if x.adopt = some .renumber then x.state.dropAll .renumbered else x.state) := by
  show x.dropRenumbered.state = _
  unfold FrameRun.dropRenumbered
  cases x.adopt with
  | none => rw [if_neg (nofun : ¬ (none : Option AdoptKind) = some .renumber)]
  | some kind =>
    cases kind with
    | listen => rw [if_neg (nofun : ¬ some AdoptKind.listen = some .renumber)]
    | renumber =>
      rw [if_pos rfl]
      dsimp only [FrameRun.update]

theorem FrameRun.work_roleAdopt (x : FrameRun) : (x.work .roleAdopt).state = (if x.adopt = some .renumber then x.state.renumberRole
    else if x.adopt = some .listen then x.state.listenToAlign else x.state) := by
  show x.handOver.state = _
  unfold FrameRun.handOver
  rcases x.adopt with _ | _ | _ <;> rfl

theorem FrameRun.foundFirst_of_not_listen {x : FrameRun} (h : x.state.ctl.role ≠ .listen) : x.foundFirst = x := if_neg h

end Sys2Proof.Machine

namespace Sys2Proof

open Sys2Proof.Machine

/-- Settles O15. -/
theorem frameStartAdvancesTheFrameAndLatches : Obligations.FrameStartAdvancesTheFrameAndLatches := by
  refine ⟨fun order s => ⟨fun hrunning => ?_, fun hstopped => ?_, FrameWork.effective_of_allowed, FrameWork.nodup_effective order,
    FrameWork.mem_effective order⟩, fun x => ?_, fun s => ?_, fun s => ?_⟩
  · have hkeeps := s.frameStart_keeping order
    obtain ⟨hrun, hframe, hline, hpixel⟩ := hkeeps.clock
    rw [s.advanceFrame_timer] at hrun hframe hline hpixel
    obtain ⟨hcfg, hport, -⟩ := s.advanceFrame_outer
    obtain ⟨-, hedit, -⟩ := s.advanceFrame_rest
    obtain ⟨hlatched, hunder⟩ := s.frameStart_latched order
    refine ⟨_, exec_frameStart_of_running hrunning order, rfl, hframe, hline, hpixel, hrun.trans hrunning, ?_, hunder,
      hkeeps.sequence.trans (congrArg EditUnit.sequence hedit), hkeeps.cfg.trans hcfg, hkeeps.port.trans hport⟩
    rw [hlatched, State.latch, State.showDecision, Role.transmits_eq]
  · exact congrArg Host.Outcome.next (if_neg fun h => Bool.false_ne_true (hstopped.symm.trans h.1))
  · refine ⟨rfl, rfl, x.work_editRenumber, x.work_roleAdopt, rfl, rfl, rfl, fun hrole => ⟨?_, ?_⟩⟩
    · exact congrArg (fun y : FrameRun => y.state.dumpApply) (FrameRun.foundFirst_of_not_listen hrole)
    · exact congrArg (fun y : FrameRun => y.state.applications) (FrameRun.foundFirst_of_not_listen hrole)
  · intro timer
    refine ⟨State.advanceFrame_of_none, fun h => ?_, State.beaconRenewal_of_silent, fun hrole => ⟨fun a ha hsource hkept => ?_,
      fun hgone => ?_⟩⟩
    · rw [State.advanceFrame_of_some h]
      refine congrArg (fun o => { s with
        timer := timer
        peers := s.adoptPeers.peers
        bus := { s.bus with attempt := o, startValid := false } }) (?_ : s.bus.attempt.map Attempt.adopt = _)
      rcases s.bus.attempt with _ | _ | _ <;> rfl
    · rw [State.beaconRenewal_of_transmits hrole, State.oweBeacon_of_attempt (State.inAttempt_iff.2 ⟨a, ha, hsource, hkept⟩)]
    · rw [State.beaconRenewal_of_transmits hrole, State.oweBeacon_of_free (State.inAttempt_eq_false hgone)]
  · obtain ⟨buffer, b, hlisten, hb⟩ := s.listenToAlign_eq
    refine ⟨s.dropAll_entryAt _, s.dropAll_outcomes _, s.dropAll_events _, s.promotion_eq, ?_, ?_, fun hrole => ?_,
      fun hrole => ?_, fun hrole => ?_⟩
    · intro r count a d
      have ha : s.verdicts .agree = a := s.verdicts_eq .agree
      have hd : s.verdicts .differ = d := s.verdicts_eq .differ
      refine ⟨State.verdictWork_of_other, fun hrole => ?_⟩
      rw [State.verdictWork_of_member hrole, ha, hd]
      refine ⟨State.countVerdicts_of_strike (s := s.clearVerdicts), fun hlt hsecond => ?_, State.countVerdicts_of_tie (s := s.clearVerdicts),
        State.countVerdicts_of_clear (s := s.clearVerdicts), State.countVerdicts_of_minority (s := s.clearVerdicts)⟩
      rw [State.countVerdicts_of_stale (s := s.clearVerdicts) hlt hsecond]
      have hturned := State.turnStale_turned { s.clearVerdicts with
        ctl := { s.clearVerdicts.ctl with strikes := s.clearVerdicts.ctl.strikes + 1, ties := 0 } }
      generalize State.turnStale _ = t at hturned ⊢
      exact hturned
    · rw [hlisten]
      refine ⟨?_, ?_, ?_, fun hother => ?_, ?_⟩
      · obtain ⟨b', howe⟩ := State.oweBeacon_eq _
        rw [howe]
      · obtain ⟨b', howe⟩ := State.oweBeacon_eq _
        rw [howe]
      · obtain ⟨b', howe⟩ := State.oweBeacon_eq _
        rw [howe]
      · have hsources : ∀ a, b.attempt = some (.transmitting a) → a.source ≠ .beacon := by
          rcases hb with rfl | rfl
          · exact hother
          · exact Bus.withdraw_sources hother
        rw [State.oweBeacon_of_free (State.inAttempt_eq_false fun a ha hsource => absurd hsource (hsources a ha))]
      · obtain ⟨b', howe⟩ := State.oweBeacon_eq _
        rw [howe]
        exact ⟨rfl, rfl, rfl, rfl⟩
    · have hturn : s.renumberRole = (s.setStale true).turnToAlign := by rw [State.renumberRole, hrole]
      rw [hturn]
      exact (s.setStale true).turnToAlign_turned
    · have halign : s.renumberRole = (s.setStale true).catchUpStart := by rw [State.renumberRole, hrole]
      obtain ⟨buffer, b, hstart, -⟩ := (s.setStale true).catchUpStart_eq
      rw [halign, hstart]
      exact ⟨rfl, rfl, rfl, rfl, rfl, rfl, rfl, rfl⟩
    · rw [State.renumberRole, hrole]
      rfl

end Sys2Proof

/-!
# The pieces of a frame start: the deadlines of the entries

Each deadline acts on an entry by itself, so what it leaves at an index is read off the entry there (R53, R60, R64, R65, R69).
-/

namespace Sys2Proof.Machine

open Sys2Proof

theorem State.noteMissed_entryAt (s : State) (i : Nat) : s.noteMissed.entryAt i = s.entryAt i := by
  rw [State.noteMissed_eq]
  rfl

theorem State.entryAt_removeEntry_self (s : State) (i : Nat) : (s.removeEntry i).entryAt i = none := by
  rw [State.entryAt_removeEntry]
  split
  · rfl
  · next h => exact State.entryAt_of_le (not_lt.1 fun hi => h ⟨rfl, hi⟩)

theorem State.entryAt_removeEntry_of_ne (s : State) {i j : Nat} (h : j ≠ i) : (s.removeEntry i).entryAt j = s.entryAt j := by
  rw [State.entryAt_removeEntry, if_neg fun hc => h hc.1.symm]

theorem State.entryAt_putEntry_of_ne (s : State) {i j : Nat} (h : j ≠ i) (e : Option EditEntry) :
    (s.putEntry i e).entryAt j = s.entryAt j := by
  rw [State.entryAt_putEntry, if_neg fun hc => h hc.1.symm]

theorem State.entryAt_enter_of_ne (s : State) {i j : Nat} (h : j ≠ i) (e : EditEntry) (k : Option MsgKind) :
    (s.enter i e k).entryAt j = s.entryAt j :=
  State.entryAt_putEntry_of_ne _ h _

theorem State.entryAt_enter_of_held {s : State} {i : Nat} {a : EditEntry} (h : s.entryAt i = some a) (e : EditEntry)
    (k : Option MsgKind) : (s.enter i e k).entryAt i = some { e with owed := k.map fun k => ⟨k, 0⟩ } :=
  State.entryAt_putEntry_of_held (s := s.withdraw (.entry i)) h _

/-! ### The deadlines of own, collecting, accepted and complete entries -/


theorem State.decideDrop_frame (s : State) (i : Nat) (e : EditEntry) (r : Reason) :
    (s.decideDrop i e r).timer.frame = s.timer.frame := by
  have h : (s.decideDrop i e r).timer = s.timer := (EditWork.decideDrop (s := s)).timer
  rw [h]

theorem State.refuse_frame (s : State) (eid : EditId) (r : Reason) : (s.refuse eid r).timer.frame = s.timer.frame := by
  rw [State.refuse_timer]

theorem State.noteMissed_frame (s : State) : s.noteMissed.timer.frame = s.timer.frame := by
  rw [State.noteMissed_eq]

/-- R53: own undecided entries near their take frame leave. -/
theorem State.ownDeadlines_entryAt (s : State) (k : Nat) : s.ownDeadlines.entryAt k = (s.entryAt k).bind fun e =>
    if e.holding = .own ∧ (e.state = .sending ∨ e.state = .awaiting) ∧ frameDiff e.takeFrame s.timer.frame ≤ 2 then none
    else some e := by
  refine State.entryAt_forEntries_bind (P := fun t => t.timer.frame = s.timer.frame) (g := fun _ e =>
    if e.holding = .own ∧ (e.state = .sending ∨ e.state = .awaiting) ∧ frameDiff e.takeFrame s.timer.frame ≤ 2 then none
    else some e) rfl (fun i e t ht => ?_) (fun i e t j hj => ?_) (fun i e t ht he => ?_) k
  · split
    · exact (t.decideDrop_frame i e _).trans ht
    · exact ht
  · split
    · rw [State.entryAt_decideDrop, if_neg fun hc => hj hc.1.symm]
    · rfl
  · have hlapse : (e.holding = .own ∧ e.undecided = true ∧ t.leadOf e ≤ 2)
        ↔ (e.holding = .own ∧ (e.state = .sending ∨ e.state = .awaiting) ∧ frameDiff e.takeFrame s.timer.frame ≤ 2) := by
      rw [EditEntry.undecided_iff, ← ht]
      rfl
    by_cases h : e.holding = .own ∧ e.undecided = true ∧ t.leadOf e ≤ 2
    · rw [if_pos h, if_pos (hlapse.1 h), State.entryAt_decideDrop, if_pos ⟨rfl, State.entryAt_lt he⟩]
    · rw [if_neg h, if_neg (mt hlapse.2 h), he]

/-- R60: collecting entries near their take frame leave. -/
theorem State.collectionDeadlines_entryAt (s : State) (k : Nat) : s.collectionDeadlines.entryAt k = (s.entryAt k).bind fun e =>
    if e.state = .collecting ∧ frameDiff e.takeFrame s.timer.frame ≤ 2 then none else some e := by
  refine State.entryAt_forEntries_bind (P := fun t => t.timer.frame = s.timer.frame) (g := fun _ e =>
    if e.state = .collecting ∧ frameDiff e.takeFrame s.timer.frame ≤ 2 then none else some e) rfl (fun i e t ht => ?_)
    (fun i e t j hj => ?_) (fun i e t ht he => ?_) k
  · split
    · split
      · exact (t.refuse_frame _ _).trans ht
      · exact (State.noteMissed_frame _).trans ht
    · exact ht
  · split
    · split
      · exact (State.entryAt_dropEntry_of_ne _ hj _ _ _).trans (t.refuse_entryAt _ _ _)
      · exact (State.noteMissed_entryAt _ _).trans (State.entryAt_removeEntry_of_ne _ hj)
    · rfl
  · have hlapse : (e.state = .collecting ∧ t.leadOf e ≤ 2)
        ↔ (e.state = .collecting ∧ frameDiff e.takeFrame s.timer.frame ≤ 2) := by
      rw [← ht]
      rfl
    by_cases h : e.state = .collecting ∧ t.leadOf e ≤ 2
    · rw [if_pos h, if_pos (hlapse.1 h)]
      split
      · exact State.entryAt_dropEntry_self _ _ _ _ _
      · exact (State.noteMissed_entryAt _ _).trans (State.entryAt_removeEntry_self _ _)
    · rw [if_neg h, if_neg (mt hlapse.2 h), he]

/-- R64: accepted voters whose take frame has come go in doubt. -/
theorem State.goInDoubt_entryAt (s : State) (k : Nat) : s.goInDoubt.entryAt k = (s.entryAt k).bind fun e =>
    if e.holding = .voter ∧ e.state = .accepted ∧ ¬ (0 < frameDiff e.takeFrame s.timer.frame) then
      some { e with state := .inDoubt, queryTries := some 1, queryWait := some 8, owed := some ⟨.query, 0⟩ }
    else some e := by
  refine State.entryAt_forEntries_bind (P := fun t => t.timer.frame = s.timer.frame) (g := fun _ e =>
    if e.holding = .voter ∧ e.state = .accepted ∧ ¬ (0 < frameDiff e.takeFrame s.timer.frame) then
      some { e with state := .inDoubt, queryTries := some 1, queryWait := some 8, owed := some ⟨.query, 0⟩ }
    else some e) rfl (fun i e t ht => ?_) (fun i e t j hj => ?_) (fun i e t ht he => ?_) k
  · split
    · exact ht
    · exact ht
  · split
    · exact State.entryAt_enter_of_ne _ hj _ _
    · rfl
  · have hdoubt : (e.holding = .voter ∧ e.state = .accepted ∧ (!laterThan e.takeFrame t.frame) = true)
        ↔ (e.holding = .voter ∧ e.state = .accepted ∧ ¬ (0 < frameDiff e.takeFrame s.timer.frame)) := by
      rw [Bool.not_eq_true', laterThan, decide_eq_false_iff_not, ← ht]
      rfl
    by_cases h : e.holding = .voter ∧ e.state = .accepted ∧ (!laterThan e.takeFrame t.frame) = true
    · rw [if_pos h, if_pos (hdoubt.1 h)]
      exact State.entryAt_enter_of_held he _ _
    · rw [if_neg h, if_neg (mt hdoubt.2 h), he]

/-- R69: complete observers leave sixteen frames after their take frame. -/
theorem State.observerExpiry_entryAt (s : State) (k : Nat) : s.observerExpiry.entryAt k = (s.entryAt k).bind fun e =>
    if e.holding = .observer ∧ e.state = .complete ∧ 16 ≤ frameDiff s.timer.frame e.takeFrame then none else some e := by
  refine State.entryAt_forEntries_bind (P := fun t => t.timer.frame = s.timer.frame) (g := fun _ e =>
    if e.holding = .observer ∧ e.state = .complete ∧ 16 ≤ frameDiff s.timer.frame e.takeFrame then none else some e) rfl
    (fun i e t ht => ?_) (fun i e t j hj => ?_) (fun i e t ht he => ?_) k
  · split
    · exact (State.noteMissed_frame _).trans ht
    · exact ht
  · split
    · exact (State.noteMissed_entryAt _ _).trans (State.entryAt_removeEntry_of_ne _ hj)
    · rfl
  · rw [← ht]
    split
    · next h => exact ((State.noteMissed_entryAt _ _).trans (State.entryAt_removeEntry_self _ _)).trans (if_pos h).symm
    · next h => exact he.trans (if_neg h).symm

/-! ### The query waits -/

/-- R65: what the query waits do with one entry. -/
def queryWaitsAt (i : Nat) (e : EditEntry) (s : State) : State :=
  if e.queryExpires then
    if e.queryTries = some 1 then s.queryAgain i e else s.dropEntry i e .noOutcome
  else if e.state = .inDoubt then s.putEntry i (some { e with queryWait := e.queryWait.map (· - 1) })
  else s

theorem State.queryWaits_eq (s : State) : s.queryWaits = s.forEntries queryWaitsAt := rfl

theorem EditEntry.queryExpires_iff {e : EditEntry} :
    e.queryExpires = true ↔ e.state = .inDoubt ∧ ∃ w, e.queryWait = some w ∧ w ≤ 1 := by
  rw [EditEntry.queryExpires, Bool.and_eq_true, decide_eq_true_eq]
  refine and_congr_right fun _ => ?_
  cases e.queryWait <;> simp

theorem queryWaitsAt_of_waiting {e : EditEntry} {w : Nat} (hstate : e.state = .inDoubt) (hwait : e.queryWait = some w) (hw : 1 < w)
    (i : Nat) (s : State) : queryWaitsAt i e s = s.putEntry i (some { e with queryWait := some (w - 1) }) := by
  have hnot : ¬ e.queryExpires = true := by
    rw [EditEntry.queryExpires_iff]
    rintro ⟨-, v, hv, hle⟩
    cases hwait.symm.trans hv
    omega
  rw [queryWaitsAt, if_neg hnot, if_pos hstate, hwait]
  rfl

theorem queryWaitsAt_of_other {e : EditEntry} (h : e.state ≠ .inDoubt) (i : Nat) (s : State) : queryWaitsAt i e s = s := by
  rw [queryWaitsAt, if_neg fun hc => h (EditEntry.queryExpires_iff.1 hc).1, if_neg h]

theorem queryWaitsAt_of_again {e : EditEntry} {w : Nat} (hstate : e.state = .inDoubt) (hwait : e.queryWait = some w) (hw : w ≤ 1)
    (htries : e.queryTries = some 1) (i : Nat) (s : State) : queryWaitsAt i e s = s.queryAgain i e := by
  rw [queryWaitsAt, if_pos (EditEntry.queryExpires_iff.2 ⟨hstate, w, hwait, hw⟩), if_pos htries]

theorem queryWaitsAt_of_last {e : EditEntry} {w : Nat} (hstate : e.state = .inDoubt) (hwait : e.queryWait = some w) (hw : w ≤ 1)
    (htries : e.queryTries ≠ some 1) (i : Nat) (s : State) : queryWaitsAt i e s = s.dropEntry i e .noOutcome := by
  rw [queryWaitsAt, if_pos (EditEntry.queryExpires_iff.2 ⟨hstate, w, hwait, hw⟩), if_neg htries]

/-- R65: the second try keeps a QUERY that is owed and in no attempt, and else owes a new one (log 17). -/
theorem State.queryAgain_entryAt {s : State} {i : Nat} {e : EditEntry} (h : s.entryAt i = some e) :
    (s.queryAgain i e).entryAt i = some { e with
      queryTries := some 2, queryWait := some 8
      owed := if e.owed.map (·.kind) = some .query ∧ s.inAttempt (.entry i) = false then e.owed else some ⟨.query, 0⟩ } := by
  have hkeep : (e.owed.map (·.kind) = some .query ∧ (!s.inAttempt (.entry i)) = true)
      ↔ (e.owed.map (·.kind) = some .query ∧ s.inAttempt (.entry i) = false) := by rw [Bool.not_eq_true']
  unfold State.queryAgain
  dsimp only
  by_cases hc : e.owed.map (·.kind) = some .query ∧ (!s.inAttempt (.entry i)) = true
  · rw [if_pos hc, if_pos (hkeep.1 hc), State.entryAt_putEntry_of_held h]
  · rw [if_neg hc, if_neg (mt hkeep.2 hc), State.entryAt_enter_of_held h]
    rfl

theorem queryWaitsAt_entryAt_of_ne (i : Nat) (e : EditEntry) (t : State) (j : Nat) (h : j ≠ i) :
    (queryWaitsAt i e t).entryAt j = t.entryAt j := by
  unfold queryWaitsAt
  split
  · split
    · unfold State.queryAgain
      dsimp only
      split
      · exact State.entryAt_putEntry_of_ne _ h _
      · exact State.entryAt_enter_of_ne _ h _ _
    · exact State.entryAt_dropEntry_of_ne _ h _ _ _
  · split
    · exact State.entryAt_putEntry_of_ne _ h _
    · rfl

/-- A withdrawal of another source leaves the attempt of a source as it is. -/
theorem State.inAttempt_withdraw_of_ne (s : State) {src other : Source} (h : other ≠ src) :
    (s.withdraw other).inAttempt src = s.inAttempt src := by
  unfold State.inAttempt State.withdraw Bus.withdraw
  dsimp only
  cases hattempt : s.bus.attempt with
  | none => simp [hattempt]
  | some a =>
    cases a with
    | receiving time usable => simp [hattempt]
    | transmitting t =>
      dsimp only
      by_cases hsource : t.source = other
      · have hne : t.source ≠ src := fun hc => h (hsource.symm.trans hc)
        simp [hsource, h]
      · simp [hsource, hattempt]

/-- The query wait of one entry touches its place in the table, and marks its attempt, alone. -/
theorem queryWaitsAt_rest (i : Nat) (e : EditEntry) (t : State) :
    (queryWaitsAt i e t).edit.outcomes = t.edit.outcomes ∧ (queryWaitsAt i e t).edit.refusals = t.edit.refusals
    ∧ (queryWaitsAt i e t).wall = t.wall ∧ (queryWaitsAt i e t).peers = t.peers ∧ (queryWaitsAt i e t).timer = t.timer
    ∧ (queryWaitsAt i e t).ctl = t.ctl ∧ (queryWaitsAt i e t).catchUp = t.catchUp
    ∧ ((queryWaitsAt i e t).bus = t.bus ∨ (queryWaitsAt i e t).bus = t.bus.withdraw (.entry i))
    ∧ (queryWaitsAt i e t).events = if (e.queryExpires && decide (e.queryTries ≠ some 1)) = true then
        joinQueue t.events ⟨.editDropped, t.timer.frame, none, some e.id, some .noOutcome, none, false⟩ else t.events := by
  unfold queryWaitsAt
  cases hexpires : e.queryExpires with
  | true =>
    rw [if_pos rfl]
    by_cases htries : e.queryTries = some 1
    · rw [if_pos htries, if_neg (by simp [htries])]
      unfold State.queryAgain
      dsimp only
      split
      · exact ⟨rfl, rfl, rfl, rfl, rfl, rfl, rfl, .inl rfl, rfl⟩
      · exact ⟨rfl, rfl, rfl, rfl, rfl, rfl, rfl, .inr rfl, rfl⟩
    · rw [if_neg htries, if_pos (by simp [htries])]
      exact ⟨rfl, rfl, rfl, rfl, rfl, rfl, rfl, .inr rfl, rfl⟩
  | false =>
    rw [if_neg Bool.false_ne_true, Bool.false_and]
    split
    · exact ⟨rfl, rfl, rfl, rfl, rfl, rfl, rfl, .inl rfl, (if_neg Bool.false_ne_true).symm⟩
    · exact ⟨rfl, rfl, rfl, rfl, rfl, rfl, rfl, .inl rfl, (if_neg Bool.false_ne_true).symm⟩

/-- What the query waits leave at an index is what the wait of its entry leaves there. -/
theorem State.queryWaits_entryAt_of_held {s : State} {k : Nat} {e : EditEntry} (h : s.entryAt k = some e) :
    ∃ t, t.inAttempt (.entry k) = s.inAttempt (.entry k) ∧ t.entryAt k = some e
      ∧ s.queryWaits.entryAt k = (queryWaitsAt k e t).entryAt k := by
  rw [State.queryWaits_eq]
  refine State.entryAt_forEntries (P := fun t => t.inAttempt (.entry k) = s.inAttempt (.entry k)) rfl (fun i a t hne ht => ?_)
    queryWaitsAt_entryAt_of_ne h
  obtain ⟨-, -, -, -, -, -, -, hbus, -⟩ := queryWaitsAt_rest i a t
  have hother : Source.entry i ≠ .entry k := fun hc => hne (Source.entry.inj hc)
  rcases hbus with hbus | hbus
  · have hsame : (queryWaitsAt i a t).inAttempt (.entry k) = t.inAttempt (.entry k) := by rw [State.inAttempt, hbus, State.inAttempt]
    exact hsame.trans ht
  · have hsame : (queryWaitsAt i a t).inAttempt (.entry k) = (t.withdraw (.entry i)).inAttempt (.entry k) := by
      rw [State.inAttempt, hbus, State.inAttempt]
      rfl
    exact hsame.trans ((t.inAttempt_withdraw_of_ne hother).trans ht)

theorem State.queryWaits_entryAt_of_none {s : State} {k : Nat} (h : s.entryAt k = none) : s.queryWaits.entryAt k = none := by
  rw [State.queryWaits_eq]
  refine State.forEntries_induction (P := fun t => t.entryAt k = none) h fun i e t ht he => ?_
  have hne : k ≠ i := by
    rintro rfl
    rw [ht] at he
    cases he
  rw [queryWaitsAt_entryAt_of_ne i e t k hne, ht]

/-- R65: the query waits leave everything but the edit table, the marks of the attempt and the event queue. -/
theorem State.queryWaits_rest (s : State) :
    s.queryWaits.edit.outcomes = s.edit.outcomes ∧ s.queryWaits.edit.refusals = s.edit.refusals
    ∧ s.queryWaits.wall = s.wall ∧ s.queryWaits.peers = s.peers ∧ s.queryWaits.timer = s.timer
    ∧ s.queryWaits.ctl = s.ctl ∧ s.queryWaits.catchUp = s.catchUp := by
  rw [State.queryWaits_eq]
  refine State.forEntries_induction (P := fun t => t.edit.outcomes = s.edit.outcomes ∧ t.edit.refusals = s.edit.refusals
    ∧ t.wall = s.wall ∧ t.peers = s.peers ∧ t.timer = s.timer ∧ t.ctl = s.ctl ∧ t.catchUp = s.catchUp)
    ⟨rfl, rfl, rfl, rfl, rfl, rfl, rfl⟩ fun i e t ⟨houtcomes, hrefusals, hwall, hpeers, htimer, hctl, hcatchUp⟩ _ => ?_
  obtain ⟨ho, hr, hw, hp, ht, hc, hcu, -, -⟩ := queryWaitsAt_rest i e t
  exact ⟨ho.trans houtcomes, hr.trans hrefusals, hw.trans hwall, hp.trans hpeers, ht.trans htimer, hc.trans hctl,
    hcu.trans hcatchUp⟩

theorem State.queryWaits_events (s : State) :
    s.queryWaits.events = (s.entries.filter fun x => x.2.queryExpires && decide (x.2.queryTries ≠ some 1)).foldl
      (fun q x => joinQueue q ⟨.editDropped, s.timer.frame, none, some x.2.id, some .noOutcome, none, false⟩) s.events := by
  rw [State.queryWaits_eq]
  refine State.events_forEntries (fun e => e.queryExpires && decide (e.queryTries ≠ some 1))
    (fun frame e => ⟨.editDropped, frame, none, some e.id, some .noOutcome, none, false⟩) (fun i e t => ?_)
    queryWaitsAt_entryAt_of_ne fun i e t => ?_
  · obtain ⟨-, -, -, -, htimer, -⟩ := queryWaitsAt_rest i e t
    rw [htimer]
  · obtain ⟨-, -, -, -, -, -, -, -, hevents⟩ := queryWaitsAt_rest i e t
    exact hevents

end Sys2Proof.Machine

/-!
# The pieces of a frame start: the waits

The waits of the requester (R132, R135, R136) and the founding wait with what it brings (R117, R118, R121).
-/

namespace Sys2Proof.Machine

open Sys2Proof

/-! ### The waits of the requester -/

theorem runsOut_iff {o : Option Nat} : runsOut o = true ↔ ∃ w, o = some w ∧ w ≤ 1 := by
  cases o <;> simp [runsOut]

theorem State.askExpires_iff {s : State} : s.askExpires = true ↔
    s.catchUp.req.state = .asking ∧ ∃ w, s.catchUp.req.askWait = some w ∧ w ≤ 1 := by
  rw [State.askExpires, Bool.and_eq_true, decide_eq_true_eq, runsOut_iff]

theorem State.receiveExpires_iff {s : State} : s.receiveExpires = true ↔
    s.catchUp.req.state = .receiving ∧ ∃ w, s.catchUp.req.receiveWait = some w ∧ w ≤ 1 := by
  rw [State.receiveExpires, Bool.and_eq_true, decide_eq_true_eq, runsOut_iff]

theorem State.retryExpires_iff {s : State} : s.retryExpires = true ↔
    s.catchUp.req.state = .retryWait ∧ ∃ w, s.catchUp.req.retryWait = some w ∧ w ≤ 1 := by
  rw [State.retryExpires, Bool.and_eq_true, decide_eq_true_eq, runsOut_iff]

/-- R135: a responder is lost while its entry is ABSENT or INCOMPATIBLE. -/
def State.lostResponder (s : State) : Prop := ∃ r p, s.catchUp.req.responder = some r ∧ s.peerAt r.toNat = some p
  ∧ (p.state = .absent ∨ p.state = .incompatible)

theorem State.responderLost_of_lost {s : State} (hstate : s.catchUp.req.state = .receiving) (h : s.lostResponder) :
    s.responderLost = true := by
  obtain ⟨r, p, hr, hp, hgone⟩ := h
  simp only [State.responderLost, hstate, hr, hp, decide_true, Bool.true_and, Bool.or_eq_true, decide_eq_true_eq]
  exact hgone

theorem State.responderLost_eq_false {s : State} (hpresent : ∃ r p, s.catchUp.req.responder = some r ∧ s.peerAt r.toNat = some p)
    (h : ¬ s.lostResponder) : s.responderLost = false := by
  obtain ⟨r, p, hr, hp⟩ := hpresent
  rw [← Bool.not_eq_true]
  intro hlost
  simp only [State.responderLost, hr, hp, Bool.and_eq_true, Bool.or_eq_true, decide_eq_true_eq] at hlost
  exact h ⟨r, p, hr, hp, hlost.2⟩

theorem State.responderLost_of_other {s : State} (h : s.catchUp.req.state ≠ .receiving) : s.responderLost = false := by
  rw [State.responderLost, decide_eq_false h]
  rfl

/-- R132, R135: the ask wait or the receive wait runs out, or the responder is lost. -/
def State.tryFails (s : State) : Prop :=
  s.catchUp.req.state = .asking ∧ (∃ w, s.catchUp.req.askWait = some w ∧ w ≤ 1)
  ∨ s.catchUp.req.state = .receiving ∧ ((∃ w, s.catchUp.req.receiveWait = some w ∧ w ≤ 1) ∨ s.lostResponder)

theorem State.catchUpWaits_of_fails {s : State} (h : s.tryFails) : s.catchUpWaits = s.failedTry := by
  refine if_pos ?_
  rw [Bool.or_eq_true, Bool.or_eq_true]
  rcases h with hask | ⟨hstate, hreceive | hlost⟩
  · exact .inl (.inl (State.askExpires_iff.2 hask))
  · exact .inl (.inr (State.receiveExpires_iff.2 ⟨hstate, hreceive⟩))
  · exact .inr (State.responderLost_of_lost hstate hlost)

/-- A frame start at which no try fails and no retry wait runs out counts the wait of the state down. -/
theorem State.catchUpWaits_of_going {s : State} (hask : s.askExpires = false) (hreceive : s.receiveExpires = false)
    (hlost : s.responderLost = false) (hretry : s.retryExpires = false) :
    s.catchUpWaits = match s.catchUp.req.state with
      | .asking => s.setReq { s.catchUp.req with askWait := s.catchUp.req.askWait.map (· - 1) }
      | .receiving => s.setReq { s.catchUp.req with receiveWait := s.catchUp.req.receiveWait.map (· - 1) }
      | .retryWait => s.setReq { s.catchUp.req with retryWait := s.catchUp.req.retryWait.map (· - 1) }
      | .idle | .applyPending => s := by
  unfold State.catchUpWaits
  rw [hask, hreceive, hlost, hretry]
  rfl

theorem State.askExpires_of_other {s : State} (h : s.catchUp.req.state ≠ .asking) : s.askExpires = false := by
  rw [State.askExpires, decide_eq_false h]
  rfl

theorem State.receiveExpires_of_other {s : State} (h : s.catchUp.req.state ≠ .receiving) : s.receiveExpires = false := by
  rw [State.receiveExpires, decide_eq_false h]
  rfl

theorem State.retryExpires_of_other {s : State} (h : s.catchUp.req.state ≠ .retryWait) : s.retryExpires = false := by
  rw [State.retryExpires, decide_eq_false h]
  rfl

theorem State.catchUpWaits_of_resting {s : State} (h : s.catchUp.req.state = .idle ∨ s.catchUp.req.state = .applyPending) :
    s.catchUpWaits = s := by
  rcases h with h | h
  all_goals
    rw [State.catchUpWaits_of_going (State.askExpires_of_other (by rw [h]; nofun)) (State.receiveExpires_of_other (by rw [h]; nofun))
      (State.responderLost_of_other (by rw [h]; nofun)) (State.retryExpires_of_other (by rw [h]; nofun)), h]

theorem State.catchUpWaits_of_asking {s : State} (h : s.catchUp.req.state = .asking)
    (hwait : ¬ ∃ w, s.catchUp.req.askWait = some w ∧ w ≤ 1) :
    s.catchUpWaits = s.setReq { s.catchUp.req with askWait := s.catchUp.req.askWait.map (· - 1) } := by
  have hask : s.askExpires = false := Bool.not_eq_true _ ▸ fun hc => hwait (State.askExpires_iff.1 hc).2
  rw [State.catchUpWaits_of_going hask (State.receiveExpires_of_other (by rw [h]; nofun))
    (State.responderLost_of_other (by rw [h]; nofun)) (State.retryExpires_of_other (by rw [h]; nofun)), h]

theorem State.catchUpWaits_of_receiving {s : State} (h : s.catchUp.req.state = .receiving)
    (hwait : ¬ ∃ w, s.catchUp.req.receiveWait = some w ∧ w ≤ 1)
    (hpresent : ∃ r p, s.catchUp.req.responder = some r ∧ s.peerAt r.toNat = some p) (hlost : ¬ s.lostResponder) :
    s.catchUpWaits = s.setReq { s.catchUp.req with receiveWait := s.catchUp.req.receiveWait.map (· - 1) } := by
  have hreceive : s.receiveExpires = false := Bool.not_eq_true _ ▸ fun hc => hwait (State.receiveExpires_iff.1 hc).2
  rw [State.catchUpWaits_of_going (State.askExpires_of_other (by rw [h]; nofun)) hreceive
    (State.responderLost_eq_false hpresent hlost) (State.retryExpires_of_other (by rw [h]; nofun)), h]

theorem State.catchUpWaits_of_retrying {s : State} (h : s.catchUp.req.state = .retryWait)
    (hwait : ¬ ∃ w, s.catchUp.req.retryWait = some w ∧ w ≤ 1) :
    s.catchUpWaits = s.setReq { s.catchUp.req with retryWait := s.catchUp.req.retryWait.map (· - 1) } := by
  have hretry : s.retryExpires = false := Bool.not_eq_true _ ▸ fun hc => hwait (State.retryExpires_iff.1 hc).2
  rw [State.catchUpWaits_of_going (State.askExpires_of_other (by rw [h]; nofun)) (State.receiveExpires_of_other (by rw [h]; nofun))
    (State.responderLost_of_other (by rw [h]; nofun)) hretry, h]

theorem State.catchUpWaits_of_cycle {s : State} (h : s.catchUp.req.state = .retryWait)
    (hwait : ∃ w, s.catchUp.req.retryWait = some w ∧ w ≤ 1) : s.catchUpWaits = s.beginCycle := by
  unfold State.catchUpWaits
  rw [State.askExpires_of_other (by rw [h]; nofun), State.receiveExpires_of_other (by rw [h]; nofun),
    State.responderLost_of_other (by rw [h]; nofun), State.retryExpires_iff.2 ⟨h, hwait⟩]
  rfl

/-- R136: a failed try below the fourth asks again. -/
theorem State.failedTry_of_early {s : State} (h : s.catchUp.req.tries + 1 < 4) :
    s.failedTry.catchUp = { s.catchUp with
      buffer := emptyBuffer
      req := { s.catchUp.req with
        tries := s.catchUp.req.tries + 1, askWait := none, responder := none, header := none, received := [],
        receiveWait := none, state := .asking, owed := some ⟨.dumpRequest, 0⟩ } }
    ∧ s.failedTry.events = s.events := by
  unfold State.failedTry
  dsimp only
  rw [if_pos h]
  exact ⟨rfl, rfl⟩

/-- R136: the fourth failed try begins the retry wait. -/
theorem State.failedTry_of_fourth {s : State} (h : 4 ≤ s.catchUp.req.tries + 1) :
    s.failedTry.catchUp = { s.catchUp with
      buffer := emptyBuffer
      req := { s.catchUp.req with
        tries := s.catchUp.req.tries + 1, askWait := none, responder := none, header := none, received := [],
        receiveWait := none, state := .retryWait, retryWait := some 64, owed := none } }
    ∧ s.failedTry.events = joinQueue s.events ⟨.dumpFailed, s.timer.frame, none, none, none, none, false⟩ := by
  unfold State.failedTry
  dsimp only
  rw [if_neg (not_lt.2 h)]
  exact ⟨rfl, rfl⟩

/-- The waits of the requester leave the other blocks. -/
theorem State.catchUpWaits_rest (s : State) :
    s.catchUpWaits.wall = s.wall ∧ s.catchUpWaits.edit = s.edit ∧ s.catchUpWaits.peers = s.peers
    ∧ s.catchUpWaits.timer = s.timer ∧ s.catchUpWaits.ctl = s.ctl := by
  unfold State.catchUpWaits
  split
  · obtain ⟨hwall, hedit, hpeers, htimer, hctl, -⟩ := s.failedTry_frame
    exact ⟨hwall, hedit, hpeers, htimer, hctl⟩
  · split
    · exact ⟨rfl, rfl, rfl, rfl, rfl⟩
    · dsimp only
      split <;> exact ⟨rfl, rfl, rfl, rfl, rfl⟩

/-! ### The abort of the requester -/

/-- R139: clearing the deferred fields writes the edit table alone. -/
theorem State.clearDeferred_eq (s : State) : ∃ table, s.clearDeferred = { s with edit := { s.edit with table := table } } := by
  unfold State.clearDeferred
  refine State.forEntries_induction (P := fun t => ∃ table, t = { s with edit := { s.edit with table := table } }) ⟨_, rfl⟩
    fun i e t ht _ => ?_
  obtain ⟨table, rfl⟩ := ht
  split <;> exact ⟨_, rfl⟩

theorem State.abortRequester_eq (s : State) : ∃ table, s.abortRequester = { s with
    edit := { s.edit with table := table }
    catchUp := { s.catchUp with req := Requester.reset, buffer := emptyBuffer }
    bus := s.bus.withdraw .requester } :=
  State.clearDeferred_eq _

/-! ### The founding wait -/

/-- R117: a LIVE entry reports MEMBER. -/
theorem State.memberLive_iff {s : State} : s.memberLive = true ↔
    ∃ n p, s.peerAt n = some p ∧ p.state = .live ∧ p.reported.map (·.role) = some .member := by
  simp only [State.memberLive, List.any_eq_true, Prod.exists, State.mem_peerList, Peer.liveMember, Peer.reportedRole,
    Bool.and_eq_true, decide_eq_true_eq]
  exact exists_congr fun n => exists_congr fun p => and_congr_right fun _ => and_congr_right fun _ =>
    ⟨of_decide_eq_true, fun h => decide_eq_true h⟩

/-- R117: the wait reaches 32 at this frame start. -/
theorem State.waitEvent_of_due {s : State} (hlive : s.memberLive = false) (hdue : 32 ≤ s.ctl.foundingWait + 1) :
    s.waitEvent = match s.ctl.role with
      | .listen => .founding
      | .align => .alignExpiry
      | .offline | .member | .leaving | .detached => .nothing := by
  refine if_neg ?_
  rw [hlive, Bool.false_or, decide_eq_true_eq]
  exact not_lt.2 hdue

theorem State.waitEvent_of_early {s : State} (h : s.memberLive = true ∨ s.ctl.foundingWait + 1 < 32) : s.waitEvent = .nothing :=
  if_pos (by rw [Bool.or_eq_true, decide_eq_true_eq]; exact h)

theorem State.waitEvent_of_other {s : State} (h : ¬ (s.ctl.role = .listen ∨ s.ctl.role = .align)) : s.waitEvent = .nothing := by
  unfold State.waitEvent
  split
  · rfl
  · split
    · next hrole => exact absurd (.inl hrole) h
    · next hrole => exact absurd (.inr hrole) h
    all_goals rfl

theorem State.waitWork_of_nothing {s : State} (h : s.waitEvent = .nothing) : s.waitWork =
    if s.ctl.role = .listen ∨ s.ctl.role = .align then
      if s.memberLive then s.restartWait
      else { s with ctl := { s.ctl with foundingWait := s.ctl.foundingWait + 1 } }
    else s := by
  rw [State.waitWork, h]

theorem State.waitWork_of_other {s : State} (h : ¬ (s.ctl.role = .listen ∨ s.ctl.role = .align)) : s.waitWork = s :=
  (State.waitWork_of_nothing (State.waitEvent_of_other h)).trans (if_neg h)

theorem State.waitWork_of_live {s : State} (h : s.ctl.role = .listen ∨ s.ctl.role = .align) (hlive : s.memberLive = true) :
    s.waitWork = s.restartWait :=
  (State.waitWork_of_nothing (State.waitEvent_of_early (.inl hlive))).trans ((if_pos h).trans (if_pos hlive))

theorem State.waitWork_of_early {s : State} (h : s.ctl.role = .listen ∨ s.ctl.role = .align) (hlive : s.memberLive = false)
    (hearly : s.ctl.foundingWait + 1 < 32) :
    s.waitWork = { s with ctl := { s.ctl with foundingWait := s.ctl.foundingWait + 1 } } :=
  (State.waitWork_of_nothing (State.waitEvent_of_early (.inr hearly))).trans
    ((if_pos h).trans (if_neg (by rw [hlive]; exact Bool.false_ne_true)))

theorem State.waitEvent_of_founding {s : State} (h : s.ctl.role = .listen) (hlive : s.memberLive = false)
    (hdue : 32 ≤ s.ctl.foundingWait + 1) : s.waitEvent = .founding := by
  rw [State.waitEvent_of_due hlive hdue, h]

theorem State.waitEvent_of_alignExpiry {s : State} (h : s.ctl.role = .align) (hlive : s.memberLive = false)
    (hdue : 32 ≤ s.ctl.foundingWait + 1) : s.waitEvent = .alignExpiry := by
  rw [State.waitEvent_of_due hlive hdue, h]

theorem State.waitWork_of_founding {s : State} (h : s.waitEvent = .founding) : s.waitWork = s.found := by
  rw [State.waitWork, h]

theorem State.waitWork_of_alignExpiry {s : State} (h : s.waitEvent = .alignExpiry) : s.waitWork = s.alignExpiry := by
  rw [State.waitWork, h]

/-- R7, R118: what founding a wall leaves. -/
theorem State.found_eq (s : State) : s.found = { s with
    ctl := { s.ctl with role := .member, foundingWait := 0, strikes := 0, ties := 0, split := .armed }
    wall := ⟨tabulate 256 greyRamp, 0, 0, 255, false, 0, true⟩
    events := joinQueue s.events ⟨.roleChanged, s.timer.frame, none, none, none, some .member, false⟩ } := rfl

/-- R121: the expiry at a station with a valid state. -/
theorem State.alignExpiry_of_valid {s : State} (h : s.wall.valid = true) : ∃ table, s.alignExpiry = { s with
    ctl := { s.ctl with
      role := .member, foundingWait := 0, stale := false, strikes := 0, ties := 0, split := .armed }
    events := joinQueue s.events ⟨.roleChanged, s.timer.frame, none, none, none, some .member, false⟩
    edit := { s.edit with table := table }
    catchUp := { s.catchUp with req := Requester.reset, buffer := emptyBuffer }
    bus := s.bus.withdraw .requester } := by
  obtain ⟨table, habort⟩ := (s.becomeMember.setStale false).abortRequester_eq
  exact ⟨table, (if_pos h).trans habort⟩

/-- R121: the expiry at a station without a valid state. -/
theorem State.alignExpiry_of_invalid {s : State} (h : s.wall.valid = false) : ∃ table, s.alignExpiry = { s with
    ctl := { s.ctl with role := .listen, foundingWait := 0, stale := false }
    timer := { s.timer with lock := .free, lockCount := 0 }
    events :=
      let q := joinQueue s.events ⟨.roleChanged, s.timer.frame, none, none, none, some .listen, false⟩
      if s.timer.lock = .locked then joinQueue q ⟨.lockLost, s.timer.frame, none, none, none, none, false⟩ else q
    edit := { s.edit with table := table }
    catchUp := { s.catchUp with req := Requester.reset, buffer := emptyBuffer }
    bus := { (s.bus.withdraw .requester).withdraw .beacon with beacon := none, renewal := false } } := by
  obtain ⟨table, habort⟩ := (((s.setRole .listen).restartWait).setStale false).abortRequester_eq
  refine ⟨table, (if_neg (by rw [h]; exact Bool.false_ne_true)).trans ?_⟩
  rw [habort, State.freeLock, State.loseLock_spec]
  rfl

/-- R139: what the expiry leaves of the entries. -/
theorem State.alignExpiry_entryAt (s : State) (k : Nat) :
    s.alignExpiry.entryAt k = (s.entryAt k).map fun e => { e with deferred := false } := by
  have hrest : ∀ u : State, u.freeLock.withdrawBeacon.entryAt k = u.entryAt k := fun u => by
    rw [State.freeLock, State.loseLock_spec]
    rfl
  unfold State.alignExpiry
  split
  · have habort := (s.becomeMember.setStale false).abortRequester_entryAt k
    generalize (s.becomeMember.setStale false).abortRequester = u at habort ⊢
    exact habort
  · have habort := (((s.setRole .listen).restartWait).setStale false).abortRequester_entryAt k
    rw [hrest]
    generalize (((s.setRole .listen).restartWait).setStale false).abortRequester = u at habort ⊢
    exact habort

/-- R117: the founding wait is counted once in a frame start. -/
theorem FrameRun.wait_state (x : FrameRun) : x.wait.state = if x.waited then x.state else x.state.waitWork := by
  unfold FrameRun.wait
  split <;> rfl

/-- An entry whose query wait is not set keeps it so. -/
theorem queryWaitsAt_of_unset {e : EditEntry} (hstate : e.state = .inDoubt) (hwait : e.queryWait = none) (i : Nat) (s : State) :
    queryWaitsAt i e s = s.putEntry i (some e) := by
  have hnot : ¬ e.queryExpires = true := by
    rw [EditEntry.queryExpires_iff]
    rintro ⟨-, w, hw, -⟩
    cases hwait.symm.trans hw
  have hsame : { e with queryWait := e.queryWait.map (· - 1) } = e := by
    cases e
    cases hwait
    rfl
  rw [queryWaitsAt, if_neg hnot, if_pos hstate, hsame]

end Sys2Proof.Machine

namespace Sys2Proof

open Sys2Proof.Machine

/-- Settles O23. -/
theorem frameStartDeadlinesActOnTheirEntries : Obligations.FrameStartDeadlinesActOnTheirEntries := by
  refine ⟨fun s k e he => ⟨?_, ?_, ?_, ?_, fun h => ?_, fun w hstate hwait => ?_⟩, fun s => ⟨fun k => State.queryWaits_entryAt_of_none, ?_⟩,
    fun s => ?_, fun s => ?_, fun x => ?_⟩
  · rw [s.ownDeadlines_entryAt, he]
    rfl
  · rw [s.collectionDeadlines_entryAt, he]
    rfl
  · rw [s.goInDoubt_entryAt, he]
    rfl
  · rw [s.observerExpiry_entryAt, he]
    rfl
  · obtain ⟨t, -, ht, hat⟩ := State.queryWaits_entryAt_of_held he
    rw [hat]
    by_cases hstate : e.state = .inDoubt
    · rw [queryWaitsAt_of_unset hstate (h.resolve_left (not_not.2 hstate))]
      exact State.entryAt_putEntry_of_held ht _
    · rw [queryWaitsAt_of_other hstate, ht]
  · intro inAttempt
    obtain ⟨t, hattempt, ht, hat⟩ := State.queryWaits_entryAt_of_held he
    have hbusy : inAttempt ↔ t.inAttempt (.entry k) = true := by rw [hattempt, State.inAttempt_iff]
    rw [hat]
    refine ⟨fun hw => ?_, fun hw htries => ?_, fun hw htries => ?_⟩
    · rw [queryWaitsAt_of_waiting hstate hwait hw]
      exact State.entryAt_putEntry_of_held ht _
    · rw [queryWaitsAt_of_again hstate hwait hw htries, State.queryAgain_entryAt ht, hbusy, Bool.not_eq_true]
      refine ⟨fun hkeep => ?_, fun hnot => ?_⟩
      · rw [if_pos hkeep]
      · rw [if_neg hnot]
    · rw [queryWaitsAt_of_last hstate hwait hw htries]
      exact State.entryAt_dropEntry_self _ _ _ _ _
  · obtain ⟨houtcomes, hrefusals, hwall, hpeers, htimer, hctl, hcatchUp⟩ := s.queryWaits_rest
    refine ⟨houtcomes, hrefusals, hwall, hpeers, htimer, hctl, hcatchUp, s.queryWaits_events.trans ?_⟩
    refine congrArg (fun p : Nat × EditEntry → Bool => (s.entries.filter p).foldl (fun q x => joinQueue q
      ⟨.editDropped, s.timer.frame, none, some x.2.id, some .noOutcome, none, false⟩) s.events) (funext fun x => ?_)
    unfold EditEntry.queryExpires
    cases x.2.queryWait <;> exact Bool.and_right_comm _ _ _
  · intro req runsOut lost present t
    refine ⟨State.catchUpWaits_of_resting, State.catchUpWaits_of_asking, State.catchUpWaits_of_receiving,
      State.catchUpWaits_of_retrying, fun h => ?_, fun h hwait => ?_, s.catchUpWaits_rest⟩
    · have hfails : t = s.failedTry := State.catchUpWaits_of_fails h
      rw [hfails]
      exact ⟨State.failedTry_of_early, State.failedTry_of_fourth⟩
    · have hcycle : t = s.beginCycle := State.catchUpWaits_of_cycle h hwait
      rw [hcycle]
      exact ⟨rfl, rfl⟩
  · intro waits live
    have hlive : live ↔ s.memberLive = true := State.memberLive_iff.symm
    have hnone : ¬ live → s.memberLive = false := fun h => Bool.not_eq_true _ ▸ mt hlive.2 h
    refine ⟨State.waitWork_of_other, fun hwaits h => State.waitWork_of_live hwaits (hlive.1 h),
      fun hwaits h => State.waitWork_of_early hwaits (hnone h), fun hrole h hdue => ?_, fun hrole h hdue => ?_, fun hvalid => ?_,
      fun hinvalid => ?_, ?_⟩
    · rw [State.waitWork_of_founding (State.waitEvent_of_founding hrole (hnone h) hdue)]
      exact s.found_eq
    · exact State.waitWork_of_alignExpiry (State.waitEvent_of_alignExpiry hrole (hnone h) hdue)
    · obtain ⟨table, h⟩ := State.alignExpiry_of_valid hvalid
      rw [h]
      exact ⟨rfl, rfl, rfl⟩
    · obtain ⟨table, h⟩ := State.alignExpiry_of_invalid hinvalid
      rw [h]
      exact ⟨rfl, rfl, rfl, rfl, rfl⟩
    · have hentries := s.alignExpiry_entryAt
      cases hvalid : s.wall.valid with
      | true =>
        obtain ⟨table, h⟩ := State.alignExpiry_of_valid hvalid
        rw [h] at hentries ⊢
        exact ⟨rfl, hentries, rfl, rfl, rfl⟩
      | false =>
        obtain ⟨table, h⟩ := State.alignExpiry_of_invalid hvalid
        rw [h] at hentries ⊢
        exact ⟨rfl, hentries, rfl, rfl, rfl⟩
  · simp only [FrameRun.work, FrameRun.update, FrameRun.wait_state, and_self]

end Sys2Proof

/-!
# Frame starts: what the peers, the role and the requester keep

The pieces of a frame start that leave the Role Controller to itself, as one relation: the peers fade, the wall state stays
valid, the requester loses at most its missed flag, and the lock can only be freed while no peer is LIVE.
-/

namespace Sys2Proof.Machine

open Sys2Proof

/-! ### Peers at a frame start -/

/-- The entries of the Peer Table before and after, station by station. -/
structure PeersRel (R : Peer → Peer → Prop) (s t : State) : Prop where
  onward : ∀ n p, s.peerAt n = some p → ∃ q, t.peerAt n = some q ∧ R p q
  back : ∀ n q, t.peerAt n = some q → ∃ p, s.peerAt n = some p ∧ R p q

/-- A frame start brings no entry to LIVE or HEARD, changes no report of a LIVE one, and brings no verdict. -/
def Peer.fades (p q : Peer) : Prop :=
  (q.state = .live → p.state = .live ∧ q.reported = p.reported) ∧ (q.state = .heard → p.state = .heard)
  ∧ (p.verdict = .none → q.verdict = .none)

theorem Peer.fades_refl (p : Peer) : p.fades p := ⟨fun h => ⟨h, rfl⟩, id, id⟩

theorem Peer.fades_trans {p q r : Peer} (h : p.fades q) (g : q.fades r) : p.fades r := by
  obtain ⟨hlive, hheard, hverdict⟩ := h
  obtain ⟨glive, gheard, gverdict⟩ := g
  refine ⟨fun hr => ?_, fun hr => hheard (gheard hr), fun hp => gverdict (hverdict hp)⟩
  obtain ⟨hq, hreport⟩ := glive hr
  obtain ⟨hp, hreport'⟩ := hlive hq
  exact ⟨hp, hreport.trans hreport'⟩

/-- The work besides the miss count: the liveness, the misses and the report stay, and the offset is used at most. -/
def Peer.steady (p q : Peer) : Prop :=
  q.state = p.state ∧ q.seen = p.seen ∧ q.misses = p.misses ∧ q.reported = p.reported
  ∧ (q.offset = p.offset ∨ q.offset = p.useOffset.offset) ∧ (p.verdict = .none → q.verdict = .none)

theorem Peer.steady_refl (p : Peer) : p.steady p := ⟨rfl, rfl, rfl, rfl, .inl rfl, id⟩

theorem Peer.useOffset_useOffset (p : Peer) : p.useOffset.useOffset = p.useOffset := by
  unfold Peer.useOffset
  cases p.offset <;> rfl

theorem Peer.steady_trans {p q r : Peer} (h : p.steady q) (g : q.steady r) : p.steady r := by
  obtain ⟨hstate, hseen, hmisses, hreported, hoffset, hverdict⟩ := h
  obtain ⟨gstate, gseen, gmisses, greported, goffset, gverdict⟩ := g
  refine ⟨gstate.trans hstate, gseen.trans hseen, gmisses.trans hmisses, greported.trans hreported, ?_, fun hp => gverdict (hverdict hp)⟩
  have hused : q.useOffset.offset = p.useOffset.offset := by
    rcases hoffset with h | h
    · simp only [Peer.useOffset, h]
    · rw [← Peer.useOffset_useOffset p]
      simp only [Peer.useOffset, h]
  rcases goffset with g | g
  · rcases hoffset with h | h
    · exact .inl (g.trans h)
    · exact .inr (g.trans h)
  · exact .inr (g.trans hused)

theorem Peer.steady.fades {p q : Peer} (h : p.steady q) : p.fades q := by
  obtain ⟨hstate, -, -, hreported, -, hverdict⟩ := h
  exact ⟨fun hq => ⟨hstate.symm.trans hq, hreported⟩, fun hq => hstate.symm.trans hq, hverdict⟩

theorem Peer.used_steady (p : Peer) :
    p.steady (if p.state = .live then { p with offset := p.offset.map fun o => { o with fresh := false } } else p) := by
  split
  · exact ⟨rfl, rfl, rfl, rfl, .inr rfl, id⟩
  · exact p.steady_refl

section
variable {R : Peer → Peer → Prop}

theorem PeersRel.of_eq (hrefl : ∀ p, R p p) {s t : State} (hpeers : t.peers = s.peers) (hcfg : t.cfg = s.cfg) : PeersRel R s t := by
  have hsame : ∀ n, t.peerAt n = s.peerAt n := fun n => by
    rw [State.peerAt, State.own, hpeers, hcfg]
    rfl
  exact ⟨fun n p hp => ⟨p, (hsame n).trans hp, hrefl p⟩, fun n q hq => ⟨q, (hsame n).symm.trans hq, hrefl q⟩⟩

theorem PeersRel.of_map {g : Peer → Peer} (hg : ∀ p, R p (g p)) {s t : State} (hpeers : t.peers = mapTable g s.peers)
    (hcfg : t.cfg = s.cfg) : PeersRel R s t := by
  have hat : ∀ n, t.peerAt n = (s.peerAt n).map g := fun n => by
    rw [State.peerAt, State.own, hpeers, hcfg, mapTable_getElem?, State.peerAt, State.own]
    by_cases hown : n = s.cfg.station.toNat
    · rw [if_pos hown, if_pos hown]
      rfl
    · rw [if_neg hown, if_neg hown]
  refine ⟨fun n p hp => ⟨g p, (hat n).trans (by rw [hp]; rfl), hg p⟩, fun n q hq => ?_⟩
  obtain ⟨p, hp, rfl⟩ := Option.map_eq_some_iff.1 ((hat n).symm.trans hq)
  exact ⟨p, hp, hg p⟩

theorem PeersRel.trans (htrans : ∀ p q r, R p q → R q r → R p r) {s t u : State} (h : PeersRel R s t) (g : PeersRel R t u) :
    PeersRel R s u := by
  refine ⟨fun n p hp => ?_, fun n r hr => ?_⟩
  · obtain ⟨q, hq, hpq⟩ := h.onward n p hp
    obtain ⟨r, hr, hqr⟩ := g.onward n q hq
    exact ⟨r, hr, htrans _ _ _ hpq hqr⟩
  · obtain ⟨q, hq, hqr⟩ := g.back n r hr
    obtain ⟨p, hp, hpq⟩ := h.back n q hq
    exact ⟨p, hp, htrans _ _ _ hpq hqr⟩

theorem PeersRel.mono {R' : Peer → Peer → Prop} (h : ∀ p q, R p q → R' p q) {s t : State} (hrel : PeersRel R s t) :
    PeersRel R' s t := by
  refine ⟨fun n p hp => ?_, fun n q hq => ?_⟩
  · obtain ⟨q, hq, hpq⟩ := hrel.onward n p hp
    exact ⟨q, hq, h p q hpq⟩
  · obtain ⟨p, hp, hpq⟩ := hrel.back n q hq
    exact ⟨p, hp, h p q hpq⟩

end

/-- No entry is LIVE. -/
def State.noneLive (s : State) : Prop := ∀ n p, s.peerAt n = some p → p.state ≠ .live

/-- No entry is HEARD, whose miss would be the loss of a voter. -/
def State.noneHeard (s : State) : Prop := ∀ n p, s.peerAt n = some p → p.state ≠ .heard

/-- No entry holds a verdict. -/
def State.noVerdict (s : State) : Prop := ∀ n p, s.peerAt n = some p → p.verdict = .none

theorem PeersRel.noneLive {s t : State} (h : PeersRel Peer.fades s t) (hs : s.noneLive) : t.noneLive := fun n q hq hlive => by
  obtain ⟨p, hp, hfades, -⟩ := h.back n q hq
  exact hs n p hp (hfades hlive).1

theorem PeersRel.noneHeard {s t : State} (h : PeersRel Peer.fades s t) (hs : s.noneHeard) : t.noneHeard := fun n q hq hheard => by
  obtain ⟨p, hp, -, hfades, -⟩ := h.back n q hq
  exact hs n p hp (hfades hheard)

theorem PeersRel.noVerdict {s t : State} (h : PeersRel Peer.fades s t) (hs : s.noVerdict) : t.noVerdict := fun n q hq => by
  obtain ⟨p, hp, -, -, hfades⟩ := h.back n q hq
  exact hfades (hs n p hp)

theorem PeersRel.memberLive {s t : State} (h : PeersRel Peer.fades s t) (hs : s.memberLive = false) : t.memberLive = false := by
  rw [← Bool.not_eq_true, State.memberLive_iff] at hs ⊢
  rintro ⟨n, q, hq, hlive, hrole⟩
  obtain ⟨p, hp, hfades, -⟩ := h.back n q hq
  obtain ⟨hplive, hreport⟩ := hfades hlive
  exact hs ⟨n, p, hp, hplive, by rw [← hreport, hrole]⟩

/-- A station that hears no peer. -/
theorem State.alone.quiet {s : State} (h : s.alone) : s.noneLive ∧ s.noneHeard ∧ s.noVerdict := by
  have hclear : ∀ n p, s.peerAt n = some p → p = p.clear := fun n p hp => h n p (State.peerAt_lt hp).2.2
  refine ⟨fun n p hp => ?_, fun n p hp => ?_, fun n p hp => ?_⟩ <;> rw [hclear n p hp]
  · exact nofun
  · exact nofun
  · rfl

/-! ### The Frame Timer -/

theorem State.steer_eq (s : State) (e : Int) : ∃ tm ev, s.steer e = { s with timer := tm, events := ev } := by
  unfold State.steer
  split
  · rw [State.loseLock_spec]
    exact ⟨_, _, rfl⟩
  · split
    · rw [State.loseLock_spec]
      exact ⟨_, _, rfl⟩
    · generalize hu : s.setCorrection (e.tdiv 2) = u
      obtain ⟨tr, ev, htrim⟩ := u.stepTrim_eq e
      obtain ⟨l, c, ev', hlock⟩ := (u.stepTrim e).fineLock_eq
      rw [hlock, htrim, ← hu]
      exact ⟨_, _, rfl⟩

/-- R95: the Frame Timer's work writes its own block, the event queue, and the fresh flags of the offsets. -/
theorem State.timerWork_eq (s : State) : ∃ peers tm ev, s.timerWork.1 = { s with peers := peers, timer := tm, events := ev }
    ∧ (peers = s.peers ∨ peers = usedOffsets s.peers) := by
  have hsteer : ∃ peers tm ev, s.steerFrame.1 = { s with peers := peers, timer := tm, events := ev }
      ∧ (peers = s.peers ∨ peers = usedOffsets s.peers) := by
    have hengaged : ∃ tm, (if s.contributors = [] then s
        else { s with timer := { s.timer with lock := s.timer.lock.engage } }) = { s with timer := tm } := by
      split
      · exact ⟨s.timer, rfl⟩
      · exact ⟨_, rfl⟩
    obtain ⟨tm, hengaged⟩ := hengaged
    rw [State.steerFrame_eq]
    dsimp only
    rw [hengaged]
    split
    · dsimp only
      rw [State.loseLock_spec]
      exact ⟨_, _, _, rfl, .inr rfl⟩
    · split
      · dsimp only
        rw [State.loseLock_spec]
        exact ⟨_, _, _, rfl, .inr rfl⟩
      · split
        · exact ⟨_, _, _, rfl, .inr rfl⟩
        · obtain ⟨tm', ev, h⟩ := State.steer_eq ((({ s with timer := tm } : State).setCorrection 0).useLiveOffsets)
            (wallError ((freshOffsets s.contributors).filterMap fun x => x.2.remaining s.cfg.p))
          dsimp only
          rw [h]
          exact ⟨_, _, _, rfl, .inr rfl⟩
  unfold State.timerWork
  split
  · exact ⟨_, _, _, rfl, .inl rfl⟩
  · exact ⟨_, _, _, rfl, .inl rfl⟩
  · unfold State.listenFrame
    dsimp only
    split <;> exact ⟨_, _, _, rfl, .inr rfl⟩
  all_goals exact hsteer

/-- R98, R109: without a LIVE peer no adopt is decided, and the lock stays or is lost. -/
theorem State.timerWork_of_noneLive {s : State} (h : s.noneLive) :
    s.timerWork.2 = none ∧ (s.timerWork.1.timer.lock = s.timer.lock ∨ s.timerWork.1.timer.lock = .free) := by
  have hlisten : s.listenFrame = ({ s with peers := usedOffsets s.peers, timer := { s.timer with correction := 0 } }, none) :=
    State.listenFrame_of_none fun n o ⟨⟨x, hx, hlive, _⟩, _⟩ => h n x hx hlive
  unfold State.timerWork
  split
  · exact ⟨rfl, .inl rfl⟩
  · exact ⟨rfl, .inl rfl⟩
  · rw [hlisten]
    exact ⟨rfl, .inl rfl⟩
  all_goals
    rw [State.steerFrame_of_alone h]
    exact ⟨rfl, .inr rfl⟩

/-- R109: in LISTEN no adopt is decided while no LIVE peer reports MEMBER. -/
theorem State.timerWork_of_listen {s : State} (hrole : s.ctl.role = .listen) (h : s.memberLive = false) : s.timerWork.2 = none := by
  have hwork : s.timerWork = s.listenFrame := by rw [State.timerWork, hrole]
  rw [← Bool.not_eq_true, State.memberLive_iff] at h
  rw [hwork, State.listenFrame_of_none]
  rintro n o ⟨⟨x, hx, hlive, -⟩, y, hy, hmember⟩
  cases hx.symm.trans hy
  exact h ⟨n, x, hx, hlive, hmember⟩

/-! ### The relation -/

/-- Work of a frame start that leaves the role, keeps the wall state valid, and can touch of the requester the missed flag
alone, which only a station that is catching up has set. -/
structure Mild (s t : State) : Prop where
  ctl : t.ctl = s.ctl
  cfg : t.cfg = s.cfg
  valid : t.wall.valid = s.wall.valid
  req : ∃ m, t.catchUp.req = { s.catchUp.req with missed := m }
  resting : s.catchUp.req.state = .idle → t.catchUp.req = s.catchUp.req
  buffer : t.catchUp.buffer = s.catchUp.buffer
  beacon : s.ctl.role.transmits = false → t.bus.beacon = s.bus.beacon
  peers : PeersRel Peer.fades s t
  lock : s.noneLive → t.timer.lock = s.timer.lock ∨ t.timer.lock = .free

theorem Mild.reqState {s t : State} (h : Mild s t) : t.catchUp.req.state = s.catchUp.req.state := by
  obtain ⟨m, hm⟩ := h.req
  rw [hm]

theorem Mild.trans {s t u : State} (h : Mild s t) (g : Mild t u) : Mild s u where
  ctl := g.ctl.trans h.ctl
  cfg := g.cfg.trans h.cfg
  valid := g.valid.trans h.valid
  req := by
    obtain ⟨m, hm⟩ := h.req
    obtain ⟨m', hm'⟩ := g.req
    exact ⟨m', by rw [hm', hm]⟩
  resting := fun hs => (g.resting (h.reqState.trans hs)).trans (h.resting hs)
  buffer := g.buffer.trans h.buffer
  beacon := fun hs => (g.beacon (by rw [h.ctl]; exact hs)).trans (h.beacon hs)
  peers := PeersRel.trans (R := Peer.fades) (fun _ _ _ => Peer.fades_trans) h.peers g.peers
  lock := fun hs => by
    rcases g.lock (h.peers.noneLive hs) with hg | hg
    · rw [hg]
      exact h.lock hs
    · exact .inr hg

/-- Work that leaves the blocks the relation is about. -/
theorem Mild.of_eq {s t : State} (hctl : t.ctl = s.ctl) (hcfg : t.cfg = s.cfg) (hvalid : t.wall.valid = s.wall.valid)
    (hreq : t.catchUp.req = s.catchUp.req) (hbuffer : t.catchUp.buffer = s.catchUp.buffer) (hbeacon : t.bus.beacon = s.bus.beacon)
    (hpeers : t.peers = s.peers) (hlock : t.timer.lock = s.timer.lock) : Mild s t :=
  ⟨hctl, hcfg, hvalid, ⟨s.catchUp.req.missed, hreq⟩, fun _ => hreq, hbuffer, fun _ => hbeacon,
    PeersRel.of_eq Peer.fades_refl hpeers hcfg, fun _ => .inl (by rw [hlock])⟩

theorem Mild.refl (s : State) : Mild s s := Mild.of_eq rfl rfl rfl rfl rfl rfl rfl rfl

/-- Work on the Peer Table under which its entries fade. -/
theorem Mild.of_peers {s t : State} {peers : Vector Peer 32} (h : t = { s with peers := peers }) (hrel : PeersRel Peer.fades s t) :
    Mild s t := by
  subst h
  exact ⟨rfl, rfl, rfl, ⟨s.catchUp.req.missed, rfl⟩, fun _ => rfl, rfl, fun _ => rfl, hrel, fun _ => .inl rfl⟩

theorem Mild.timerWork (s : State) : Mild s s.timerWork.1 := by
  have hlock := fun h => (State.timerWork_of_noneLive (s := s) h).2
  obtain ⟨peers, tm, ev, h, hpeers⟩ := s.timerWork_eq
  rw [h] at hlock ⊢
  refine ⟨rfl, rfl, rfl, ⟨s.catchUp.req.missed, rfl⟩, fun _ => rfl, rfl, fun _ => rfl, ?_, hlock⟩
  rcases hpeers with rfl | rfl
  · exact PeersRel.of_eq Peer.fades_refl rfl rfl
  · exact PeersRel.of_map (fun p => p.used_steady.fades) rfl rfl

theorem Mild.clearVerdicts (s : State) : Mild s s.clearVerdicts :=
  Mild.of_peers rfl (PeersRel.of_map (fun _ => ⟨fun h => ⟨h, rfl⟩, id, fun _ => rfl⟩) rfl rfl)

theorem Mild.beaconRenewal (s : State) : Mild s s.beaconRenewal := by
  unfold State.beaconRenewal
  split
  · next h =>
    obtain ⟨b, howe⟩ := s.oweBeacon_eq
    rw [howe]
    exact ⟨rfl, rfl, rfl, ⟨s.catchUp.req.missed, rfl⟩, fun _ => rfl, rfl, fun hs => absurd (hs.symm.trans h) Bool.false_ne_true,
      PeersRel.of_eq Peer.fades_refl rfl rfl, fun _ => .inl rfl⟩
  · exact Mild.refl s

/-! ### Work on the entries -/

theorem State.noteMissed_of_idle {s : State} (h : s.catchUp.req.state = .idle) : s.noteMissed = s :=
  if_neg fun hc => (State.catchingUp_iff.1 hc) h

theorem Mild.of_edit {s t : State} (h : EditWork s t) (hresting : s.catchUp.req.state = .idle → t.catchUp.req = s.catchUp.req) :
    Mild s t := by
  obtain ⟨_, _, _, m, rfl⟩ := h.frame
  exact ⟨rfl, rfl, rfl, ⟨m, rfl⟩, hresting, rfl, fun _ => rfl, PeersRel.of_eq Peer.fades_refl rfl rfl, fun _ => .inl rfl⟩

/-- Work on each entry that leaves the requester of a station at rest. -/
theorem State.forEntries_resting {f : Nat → EditEntry → State → State}
    (hf : ∀ i e t, t.catchUp.req.state = .idle → (f i e t).catchUp.req = t.catchUp.req) (s : State)
    (hs : s.catchUp.req.state = .idle) : (s.forEntries f).catchUp.req = s.catchUp.req :=
  State.forEntries_induction (P := fun t => t.catchUp.req = s.catchUp.req) rfl fun i e t ht _ =>
    (hf i e t (by rw [ht]; exact hs)).trans ht

theorem State.decideDrop_catchUp (s : State) (i : Nat) (e : EditEntry) (r : Reason) :
    (s.decideDrop i e r).catchUp = s.catchUp := by
  obtain ⟨b, h⟩ := s.recordOutcome_eq ⟨e.id, false, some r, if e.proposed = some true then some ⟨.drop, 0⟩ else none⟩
  unfold State.decideDrop
  rw [h]
  rfl

theorem Mild.ownDeadlines (s : State) : Mild s s.ownDeadlines := by
  refine Mild.of_edit (EditWork.ownDeadlines s) ?_
  unfold State.ownDeadlines
  refine State.forEntries_resting (fun i e t _ => ?_) s
  split
  · rw [State.decideDrop_catchUp]
  · rfl

theorem Mild.collectionDeadlines (s : State) : Mild s s.collectionDeadlines := by
  refine Mild.of_edit (EditWork.collectionDeadlines s) ?_
  unfold State.collectionDeadlines
  refine State.forEntries_resting (fun i e t ht => ?_) s
  split
  · split
    · rcases t.refuse_eq e.id .late with h | ⟨-, h⟩ <;> rw [h] <;> rfl
    · rw [State.noteMissed_of_idle (s := t.removeEntry i) ht]
      rfl
  · rfl

theorem Mild.queryWaits (s : State) : Mild s s.queryWaits := by
  obtain ⟨-, -, -, -, -, -, hcatchUp⟩ := s.queryWaits_rest
  exact Mild.of_edit (EditWork.queryWaits s) fun _ => by rw [hcatchUp]

theorem Mild.goInDoubt (s : State) : Mild s s.goInDoubt := by
  refine Mild.of_edit (EditWork.goInDoubt s) ?_
  unfold State.goInDoubt
  refine State.forEntries_resting (fun i e t _ => ?_) s
  split <;> rfl

theorem Mild.observerExpiry (s : State) : Mild s s.observerExpiry := by
  refine Mild.of_edit (EditWork.observerExpiry s) ?_
  unfold State.observerExpiry
  refine State.forEntries_resting (fun i e t ht => ?_) s
  split
  · rw [State.noteMissed_of_idle (s := t.removeEntry i) ht]
    rfl
  · rfl

theorem Mild.loseVoter (s : State) (st : Station) : Mild s (s.loseVoter st) := by
  obtain ⟨ed, a, h⟩ := s.loseVoter_frame st
  exact Mild.of_edit EditWork.loseVoter fun _ => by rw [h]

/-! ### The applications -/

theorem WallState.apply_valid (w : WallState) (e : EditEntry) : (w.apply e).valid = w.valid := by
  unfold WallState.apply
  cases e.target <;> rfl

theorem Mild.applyEntry (s : State) (i : Nat) (e : EditEntry) : Mild s (s.applyEntry i e) := by
  refine Mild.of_eq rfl rfl ?_ rfl rfl ?_ rfl rfl
  · rw [State.applyEntry_wall, WallState.apply_valid]
  · show (Bus.withdraw _ _).beacon = _
    rw [Bus.withdraw_eq]
    rfl

theorem Mild.deferEntry (s : State) (i : Nat) (e : EditEntry) : Mild s (s.deferEntry i e) := by
  rw [State.deferEntry_eq]
  refine ⟨rfl, rfl, rfl, ⟨_, rfl⟩, fun h => ?_, rfl, fun _ => rfl, PeersRel.of_eq Peer.fades_refl rfl rfl, fun _ => .inl rfl⟩
  have hresting : s.catchingUp = false := by
    rw [State.catchingUp_eq_decide, decide_eq_false_iff_not, not_not]
    exact h
  rw [hresting, Bool.and_false, Bool.or_false]

theorem Mild.takeDue (s : State) (due : EditEntry → Bool) : Mild s (s.takeDue due) :=
  State.takeDue_induction (P := Mild s) due (Mild.refl s) (fun t i e h => h.trans (Mild.applyEntry t i e))
    fun t i e h => h.trans (Mild.deferEntry t i e)

theorem Mild.applications (s : State) : Mild s s.applications := (Mild.takeDue s _).trans (Mild.takeDue _ _)

/-! ### The miss count -/

theorem State.putPeer_fades {s : State} {n : Nat} {p q : Peer} (hp : s.peerAt n = some p) (hfades : p.fades q) :
    PeersRel Peer.fades s (s.putPeer n q) := by
  obtain ⟨hlt, hne, hat⟩ := State.peerAt_lt hp
  have hput : ∀ m, (s.putPeer n q).peerAt m = if n = m then some q else s.peerAt m := fun m => by
    rw [State.putPeer_of_ne q hne]
    by_cases hm : n = m
    · subst hm
      rw [if_pos rfl, State.peerAt_of_ne (by exact hne)]
      simp [hlt]
    · rw [if_neg hm]
      rw [State.peerAt, State.own, Vector.getElem?_setIfInBounds_ne hm]
      rfl
  refine ⟨fun m x hx => ?_, fun m x hx => ?_⟩
  · rw [hput]
    split
    · next hm =>
      subst hm
      cases hp.symm.trans hx
      exact ⟨q, rfl, hfades⟩
    · exact ⟨x, hx, x.fades_refl⟩
  · rw [hput] at hx
    split at hx
    · next hm =>
      subst hm
      cases hx
      exact ⟨p, hp, hfades⟩
    · exact ⟨x, hx, x.fades_refl⟩

theorem Mild.putPeer {s : State} {n : Nat} {p q : Peer} (hp : s.peerAt n = some p) (hfades : p.fades q) : Mild s (s.putPeer n q) := by
  obtain ⟨peers, h⟩ := s.putPeer_eq n q
  exact Mild.of_peers h (State.putPeer_fades hp hfades)

theorem Mild.post (s : State) (k : EventKind) (st : Option Station) : Mild s (s.post k st) :=
  Mild.of_eq rfl rfl rfl rfl rfl rfl rfl rfl

theorem Peer.fades_of_gone {p q : Peer} (hlive : q.state ≠ .live) (hheard : q.state ≠ .heard)
    (hverdict : p.verdict = .none → q.verdict = .none) : p.fades q :=
  ⟨fun h => absurd h hlive, fun h => absurd h hheard, hverdict⟩

theorem Peer.clear_fades (p : Peer) : p.fades p.clear :=
  Peer.fades_of_gone (nofun : PeerState.absent ≠ .live) (nofun : PeerState.absent ≠ .heard) fun _ => rfl

theorem Peer.silent_fades (p : Peer) : p.fades { p.useOffset with state := .silent, misses := 3 } :=
  Peer.fades_of_gone (nofun : PeerState.silent ≠ .live) (nofun : PeerState.silent ≠ .heard) id

theorem Mild.missAt (s : State) (n : Nat) : Mild s (s.missAt n) := by
  unfold State.missAt
  split
  · next p hp =>
    split
    · exact Mild.putPeer hp ⟨fun h => ⟨h, rfl⟩, id, id⟩
    · split
      · exact (Mild.putPeer hp p.clear_fades).trans (Mild.loseVoter _ _)
      · split
        · exact ((Mild.putPeer hp p.silent_fades).trans (Mild.post _ _ _)).trans (Mild.loseVoter _ _)
        · exact Mild.putPeer hp ⟨fun h => ⟨h, rfl⟩, id, id⟩
      all_goals exact Mild.refl s
  · exact Mild.refl s

theorem Mild.missCount (s : State) : Mild s s.missCount :=
  State.missCount_induction (P := Mild s) (Mild.refl s) fun n t ht => ht.trans (Mild.missAt t n)

end Sys2Proof.Machine

/-!
# A frame start, piece by piece

Every piece of work comes once, so a whole frame start is a piece w with what comes before it and what comes after it. The peers
under every piece, and the miss count of a frame start (R77).
-/

namespace Sys2Proof.Machine

open Sys2Proof

/-! ### The piece in its order -/

section
variable {α β : Type} {f : α → β → α} {I J : α → Prop} {w : β}

theorem foldl_keeps_of_not_mem (hkeep : ∀ v x, v ≠ w → J x → J (f x v)) : ∀ (xs : List β) (x : α), w ∉ xs → J x → J (xs.foldl f x)
  | [], _, _, h => h
  | v :: xs, x, hw, h => by
    obtain ⟨hne, hrest⟩ := not_or.1 (mt List.mem_cons.2 hw)
    exact foldl_keeps_of_not_mem hkeep xs _ hrest (hkeep v x (Ne.symm hne) h)

/-- What the other steps keep until w, and what they keep after it. -/
theorem foldl_around (hbefore : ∀ v x, v ≠ w → I x → I (f x v)) (hat : ∀ x, I x → J (f x w))
    (hafter : ∀ v x, v ≠ w → J x → J (f x v)) : ∀ (xs : List β) (x : α), xs.Nodup → w ∈ xs → I x → J (xs.foldl f x)
  | [], _, _, hw, _ => absurd hw List.not_mem_nil
  | v :: xs, x, hnodup, hw, h => by
    obtain ⟨hnot, hrest⟩ := List.nodup_cons.1 hnodup
    rw [List.foldl_cons]
    by_cases hv : v = w
    · subst hv
      exact foldl_keeps_of_not_mem hafter xs _ hnot (hat x h)
    · exact foldl_around hbefore hat hafter xs _ hrest (List.mem_of_ne_of_mem (Ne.symm hv) hw) (hbefore v x hv h)

end

/-- A frame start around the piece w: I holds from the advance until w, and J from w until the latch. -/
theorem State.frameStart_at {I J : FrameRun → Prop} (w : FrameWork) {s : State} (order : List FrameWork)
    (h0 : I (FrameRun.start s.advanceFrame)) (hbefore : ∀ v x, v ≠ w → I x → I (x.work v)) (hat : ∀ x, I x → J (x.work w))
    (hafter : ∀ v x, v ≠ w → J x → J (x.work v)) : ∃ x, s.frameStart order = x.update State.latchFrame ∧ J x :=
  ⟨_, rfl, foldl_around hbefore hat hafter _ _ (FrameWork.nodup_effective order) (FrameWork.mem_effective order w) h0⟩

theorem State.frameStartWith_of_event {s : State} {order : List FrameWork} {event : FrameRun → Bool}
    (hrunning : s.timer.running = true) (h : event (s.frameStart order) = true) :
    s.frameStartWith order event = (s.frameStart order).state :=
  if_pos ⟨hrunning, h⟩

/-! ### What the pieces do to the rest of the run -/

theorem FrameRun.wait_of_waited {x : FrameRun} (h : x.waited = true) : x.wait = x := if_pos h

theorem FrameRun.foundFirst_of_waited {x : FrameRun} (h : x.waited = true) : x.foundFirst = x := by
  rw [FrameRun.foundFirst, FrameRun.wait_of_waited h]
  exact ite_self x

/-- The run notes the adopt, who fell silent, and whose waits have ended as it did. -/
def FrameRun.sameMarks (x y : FrameRun) : Prop :=
  y.adopt = x.adopt ∧ y.silenced = x.silenced ∧ y.queriesEnded = x.queriesEnded ∧ y.askExpired = x.askExpired
  ∧ y.receiveExpired = x.receiveExpired ∧ y.retryExpired = x.retryExpired

theorem FrameRun.sameMarks_refl (x : FrameRun) : x.sameMarks x := ⟨rfl, rfl, rfl, rfl, rfl, rfl⟩

theorem FrameRun.sameMarks_update {x y : FrameRun} (h : x.sameMarks y) (f : State → State) : x.sameMarks (y.update f) := h

/-- The counting of the founding wait notes its own two events alone. -/
theorem FrameRun.wait_sameMarks (x : FrameRun) : x.sameMarks x.wait := by
  unfold FrameRun.wait
  split
  · exact x.sameMarks_refl
  · exact ⟨rfl, rfl, rfl, rfl, rfl, rfl⟩

theorem FrameRun.foundFirst_sameMarks (x : FrameRun) : x.sameMarks x.foundFirst := by
  unfold FrameRun.foundFirst
  split
  · exact x.wait_sameMarks
  · exact x.sameMarks_refl

theorem FrameRun.foundFirst_state (x : FrameRun) : x.foundFirst.state = x.state ∨ x.foundFirst.state = x.state.waitWork := by
  unfold FrameRun.foundFirst
  split
  · rw [x.wait_state]
    split
    · exact .inl rfl
    · exact .inr rfl
  · exact .inl rfl

/-- The hand-overs of a run without an adopt do nothing. -/
theorem FrameRun.handOver_of_none {x : FrameRun} (h : x.adopt = none) : x.handOver = x := by
  rw [FrameRun.handOver, h]

theorem FrameRun.dropRenumbered_of_none {x : FrameRun} (h : x.adopt = none) : x.dropRenumbered = x := by
  rw [FrameRun.dropRenumbered, h]

/-- The pieces that note an event of their own, or the adopt. -/
def FrameWork.marking : List FrameWork := [.frameTimer, .missCount, .queryWaits, .catchUpWaits]

theorem FrameRun.work_sameMarks {w : FrameWork} (hw : w ∉ FrameWork.marking) (x : FrameRun) : x.sameMarks (x.work w) := by
  have hrefl := x.sameMarks_refl
  cases w with
  | frameTimer | missCount | queryWaits | catchUpWaits => exact absurd (by decide) hw
  | editRenumber =>
    show x.sameMarks x.dropRenumbered
    unfold FrameRun.dropRenumbered
    split
    · exact FrameRun.sameMarks_update hrefl _
    · exact hrefl
    · exact hrefl
  | roleAdopt =>
    show x.sameMarks x.handOver
    unfold FrameRun.handOver
    split
    · exact FrameRun.sameMarks_update hrefl _
    · exact FrameRun.sameMarks_update hrefl _
    · exact hrefl
  | foundingWait => exact x.wait_sameMarks
  | dumpApply | applications => exact FrameRun.sameMarks_update x.foundFirst_sameMarks _
  | _ => exact FrameRun.sameMarks_update hrefl _

/-- The miss count alone notes who falls silent. -/
theorem FrameRun.work_silenced {w : FrameWork} (hw : w ≠ .missCount) (x : FrameRun) : (x.work w).silenced = x.silenced := by
  by_cases hmark : w ∈ FrameWork.marking
  · cases w with
    | missCount => exact absurd rfl hw
    | frameTimer | queryWaits | catchUpWaits => dsimp only [FrameRun.work]
    | _ => exact absurd hmark (by decide)
  · obtain ⟨-, h, -⟩ := x.work_sameMarks hmark
    exact h

/-- The query waits alone note whose queries have ended. -/
theorem FrameRun.work_queriesEnded {w : FrameWork} (hw : w ≠ .queryWaits) (x : FrameRun) :
    (x.work w).queriesEnded = x.queriesEnded := by
  by_cases hmark : w ∈ FrameWork.marking
  · cases w with
    | queryWaits => exact absurd rfl hw
    | frameTimer | missCount | catchUpWaits => dsimp only [FrameRun.work]
    | _ => exact absurd hmark (by decide)
  · obtain ⟨-, -, h, -⟩ := x.work_sameMarks hmark
    exact h

/-- The waits of the requester alone note which of them have run out. -/
theorem FrameRun.work_expired {w : FrameWork} (hw : w ≠ .catchUpWaits) (x : FrameRun) :
    (x.work w).askExpired = x.askExpired ∧ (x.work w).receiveExpired = x.receiveExpired
    ∧ (x.work w).retryExpired = x.retryExpired := by
  by_cases hmark : w ∈ FrameWork.marking
  · cases w with
    | catchUpWaits => exact absurd rfl hw
    | frameTimer | missCount | queryWaits =>
      dsimp only [FrameRun.work]
      exact ⟨rfl, rfl, rfl⟩
    | _ => exact absurd hmark (by decide)
  · obtain ⟨-, -, -, h⟩ := x.work_sameMarks hmark
    exact h

/-- The Frame Timer alone decides an adopt. -/
theorem FrameRun.work_adopt {w : FrameWork} (hw : w ≠ .frameTimer) (x : FrameRun) : (x.work w).adopt = x.adopt := by
  by_cases hmark : w ∈ FrameWork.marking
  · cases w with
    | frameTimer => exact absurd rfl hw
    | missCount | queryWaits | catchUpWaits => dsimp only [FrameRun.work]
    | _ => exact absurd hmark (by decide)
  · obtain ⟨h, -⟩ := x.work_sameMarks hmark
    exact h

/-! ### The peers under every piece -/

theorem PeersRel.steady_of_eq {s t : State} (hpeers : t.peers = s.peers) (hcfg : t.cfg = s.cfg) : PeersRel Peer.steady s t :=
  PeersRel.of_eq Peer.steady_refl hpeers hcfg

theorem PeersRel.steady_trans {s t u : State} (h : PeersRel Peer.steady s t) (g : PeersRel Peer.steady t u) :
    PeersRel Peer.steady s u :=
  PeersRel.trans (R := Peer.steady) (fun _ _ _ => Peer.steady_trans) h g

theorem PeersRel.fades_of_steady {s t : State} (h : PeersRel Peer.steady s t) : PeersRel Peer.fades s t :=
  h.mono fun _ _ => Peer.steady.fades

theorem EditWork.steady {s t : State} (h : EditWork s t) : PeersRel Peer.steady s t := by
  obtain ⟨_, _, _, _, rfl⟩ := h.frame
  exact PeersRel.steady_of_eq rfl rfl

theorem PeersRel.steady_of_cleared {s t : State} (hpeers : t.peers = mapTable (fun p => { p with verdict := .none }) s.peers)
    (hcfg : t.cfg = s.cfg) : PeersRel Peer.steady s t :=
  PeersRel.of_map (fun _ => ⟨rfl, rfl, rfl, rfl, .inl rfl, fun _ => rfl⟩) hpeers hcfg

theorem State.turned.steady {s t : State} (h : s.turned t) : PeersRel Peer.steady s t := by
  obtain ⟨-, -, -, -, -, hpeers, -, -, -, -, -, -, -, hcfg, -⟩ := h
  exact PeersRel.steady_of_cleared hpeers hcfg

theorem State.advanceFrame_steady (s : State) : PeersRel Peer.steady s s.advanceFrame := by
  by_cases h : s.timer.advance = none
  · rw [State.advanceFrame_of_none h]
    exact PeersRel.steady_of_eq rfl rfl
  · rw [State.advanceFrame_of_some h]
    exact PeersRel.of_map (fun _ => ⟨rfl, rfl, rfl, rfl, .inr rfl, id⟩) rfl rfl

theorem State.timerWork_steady (s : State) : PeersRel Peer.steady s s.timerWork.1 := by
  obtain ⟨peers, tm, ev, h, rfl | rfl⟩ := s.timerWork_eq
  · rw [h]
    exact PeersRel.steady_of_eq rfl rfl
  · rw [h]
    exact PeersRel.of_map Peer.used_steady rfl rfl

theorem State.listenToAlign_steady (s : State) : PeersRel Peer.steady s s.listenToAlign := by
  obtain ⟨buffer, b, h, -⟩ := s.listenToAlign_eq
  rw [h]
  obtain ⟨b', howe⟩ := State.oweBeacon_eq _
  rw [howe]
  exact PeersRel.steady_of_eq rfl rfl

theorem State.renumberRole_steady (s : State) : PeersRel Peer.steady s s.renumberRole := by
  unfold State.renumberRole
  split
  · have hstale : PeersRel Peer.steady s (s.setStale true) := PeersRel.steady_of_eq rfl rfl
    exact hstale.steady_trans (State.turnToAlign_turned _).steady
  · obtain ⟨buffer, b, h, -⟩ := (s.setStale true).catchUpStart_eq
    rw [h]
    exact PeersRel.steady_of_eq rfl rfl
  all_goals exact PeersRel.steady_of_eq rfl rfl

theorem State.countVerdicts_steady (s : State) (a d : Nat) : PeersRel Peer.steady s (s.countVerdicts a d) := by
  unfold State.countVerdicts
  split
  · dsimp only
    split
    · exact (PeersRel.steady_of_eq (by rfl) (by rfl)).steady_trans (State.turnStale_turned _).steady
    · exact PeersRel.steady_of_eq rfl rfl
  · split
    · unfold State.countTie
      dsimp only
      split <;> exact PeersRel.steady_of_eq rfl rfl
    · split <;> exact PeersRel.steady_of_eq rfl rfl

theorem State.verdictWork_steady (s : State) : PeersRel Peer.steady s s.verdictWork := by
  have hclear : PeersRel Peer.steady s s.clearVerdicts := PeersRel.steady_of_cleared rfl rfl
  by_cases h : s.ctl.role = .member
  · rw [State.verdictWork_of_member h]
    exact hclear.steady_trans (State.countVerdicts_steady _ _ _)
  · rw [State.verdictWork_of_other h]
    exact hclear

theorem State.waitWork_steady (s : State) : PeersRel Peer.steady s s.waitWork := by
  unfold State.waitWork
  split
  · exact PeersRel.steady_of_eq rfl rfl
  · cases hvalid : s.wall.valid with
    | true =>
      obtain ⟨table, h⟩ := State.alignExpiry_of_valid hvalid
      rw [h]
      exact PeersRel.steady_of_eq rfl rfl
    | false =>
      obtain ⟨table, h⟩ := State.alignExpiry_of_invalid hvalid
      rw [h]
      exact PeersRel.steady_of_eq rfl rfl
  · split
    · split <;> exact PeersRel.steady_of_eq rfl rfl
    · exact PeersRel.steady_of_eq rfl rfl

theorem State.promotion_steady (s : State) : PeersRel Peer.steady s s.promotion := by
  rw [State.promotion_eq]
  split <;> exact PeersRel.steady_of_eq rfl rfl

theorem State.applyEntry_steady (s : State) (i : Nat) (e : EditEntry) : PeersRel Peer.steady s (s.applyEntry i e) :=
  PeersRel.steady_of_eq rfl rfl

theorem State.takeDue_steady (s : State) (due : EditEntry → Bool) : PeersRel Peer.steady s (s.takeDue due) :=
  State.takeDue_induction (P := PeersRel Peer.steady s) due (PeersRel.steady_of_eq rfl rfl)
    (fun t i e h => h.steady_trans (t.applyEntry_steady i e)) fun t i e h => h.steady_trans (by
      rw [State.deferEntry_eq]
      exact PeersRel.steady_of_eq rfl rfl)

theorem State.applications_steady (s : State) : PeersRel Peer.steady s s.applications :=
  (s.takeDue_steady _).steady_trans (State.takeDue_steady _ _)

theorem State.dumpApply_steady (s : State) : PeersRel Peer.steady s s.dumpApply := by
  unfold State.dumpApply
  split
  · next h _ _ =>
    have hload : PeersRel Peer.steady s (s.loadDump h) := PeersRel.steady_of_eq rfl rfl
    have hdeferred : PeersRel Peer.steady (s.loadDump h) ((s.loadDump h).applyDeferred h.frame) :=
      State.applyDeferred_induction (P := PeersRel Peer.steady (s.loadDump h)) h.frame (PeersRel.steady_of_eq rfl rfl)
        (fun _ _ ht => ht.steady_trans EditWork.removeEntry.steady) fun t i e ht => ht.steady_trans (t.applyEntry_steady i e)
    have hbefore := hload.steady_trans hdeferred
    unfold State.applyDump
    dsimp only
    rw [show ({ s with wall := WallState.load h s.catchUp.buffer } : State) = s.loadDump h from rfl]
    generalize (s.loadDump h).applyDeferred h.frame = u at hbefore
    split <;> exact hbefore.steady_trans (PeersRel.steady_of_eq rfl rfl)
  · exact PeersRel.steady_of_eq rfl rfl

theorem State.beaconRenewal_steady (s : State) : PeersRel Peer.steady s s.beaconRenewal := by
  unfold State.beaconRenewal
  split
  · obtain ⟨b, h⟩ := s.oweBeacon_eq
    rw [h]
    exact PeersRel.steady_of_eq rfl rfl
  · exact PeersRel.steady_of_eq rfl rfl

theorem State.catchUpWaits_steady (s : State) : PeersRel Peer.steady s s.catchUpWaits :=
  PeersRel.steady_of_eq s.catchUpWaits_rest.2.2.1 (Keeps.catchUpWaits s).cfg

theorem FrameRun.foundFirst_steady (x : FrameRun) : PeersRel Peer.steady x.state x.foundFirst.state := by
  rcases x.foundFirst_state with h | h <;> rw [h]
  · exact PeersRel.steady_of_eq rfl rfl
  · exact x.state.waitWork_steady

/-- Every piece but the miss count leaves the liveness, the misses and the reports of the peers. -/
theorem FrameRun.work_steady {w : FrameWork} (hw : w ≠ .missCount) (x : FrameRun) : PeersRel Peer.steady x.state (x.work w).state := by
  have hrefl : PeersRel Peer.steady x.state x.state := PeersRel.steady_of_eq rfl rfl
  cases w with
  | missCount => exact absurd rfl hw
  | frameTimer => exact x.state.timerWork_steady
  | editRenumber =>
    rw [x.work_editRenumber]
    split
    · exact (EditWork.dropAll _ _).steady
    · exact hrefl
  | roleAdopt =>
    rw [x.work_roleAdopt]
    split
    · exact x.state.renumberRole_steady
    · split
      · exact x.state.listenToAlign_steady
      · exact hrefl
  | verdictCount => exact x.state.verdictWork_steady
  | promotion => exact x.state.promotion_steady
  | foundingWait =>
    show PeersRel Peer.steady x.state x.wait.state
    rw [x.wait_state]
    split
    · exact hrefl
    · exact x.state.waitWork_steady
  | dumpApply =>
    dsimp only [FrameRun.work, FrameRun.update]
    exact x.foundFirst_steady.steady_trans x.foundFirst.state.dumpApply_steady
  | applications =>
    dsimp only [FrameRun.work, FrameRun.update]
    exact x.foundFirst_steady.steady_trans x.foundFirst.state.applications_steady
  | ownDeadlines =>
    dsimp only [FrameRun.work, FrameRun.update]
    exact (EditWork.ownDeadlines x.state).steady
  | collectionDeadlines =>
    dsimp only [FrameRun.work, FrameRun.update]
    exact (EditWork.collectionDeadlines x.state).steady
  | queryWaits =>
    dsimp only [FrameRun.work, FrameRun.update]
    exact (EditWork.queryWaits x.state).steady
  | goInDoubt =>
    dsimp only [FrameRun.work, FrameRun.update]
    exact (EditWork.goInDoubt x.state).steady
  | observerExpiry =>
    dsimp only [FrameRun.work, FrameRun.update]
    exact (EditWork.observerExpiry x.state).steady
  | catchUpWaits => exact x.state.catchUpWaits_steady
  | beaconRenewal => exact x.state.beaconRenewal_steady

/-- No piece brings a peer to LIVE or HEARD, or a verdict. -/
theorem FrameRun.work_fades (w : FrameWork) (x : FrameRun) : PeersRel Peer.fades x.state (x.work w).state := by
  by_cases hw : w = .missCount
  · subst hw
    have h := (Mild.missCount x.state).peers
    dsimp only [FrameRun.work]
    exact h
  · exact PeersRel.fades_of_steady (x.work_steady hw)

end Sys2Proof.Machine

/-!
# The third miss (R77)

The miss count touches each entry of the Peer Table once, and at no other piece of a frame start do the misses change.
-/

namespace Sys2Proof.Machine

open Sys2Proof

/-! ### One entry of the miss count -/

theorem State.loseVoter_peerAt (s : State) (st : Station) (m : Nat) : (s.loseVoter st).peerAt m = s.peerAt m := by
  obtain ⟨ed, a, h⟩ := s.loseVoter_frame st
  rw [h]
  rfl

theorem State.putPeer_peerAt_other {n m : Nat} (h : n ≠ m) (s : State) (p : Peer) : (s.putPeer n p).peerAt m = s.peerAt m := by
  unfold State.putPeer
  split
  · rfl
  · rw [State.peerAt, State.own, Vector.getElem?_setIfInBounds_ne h]
    rfl

theorem State.putPeer_peerAt_same {s : State} {n : Nat} {p : Peer} (hp : s.peerAt n = some p) (q : Peer) :
    (s.putPeer n q).peerAt n = some q := by
  obtain ⟨hlt, hne, -⟩ := State.peerAt_lt hp
  rw [State.putPeer_of_ne q hne, State.peerAt_of_ne (by exact hne)]
  simp [hlt]

theorem State.missAt_peerAt_other {n m : Nat} (h : n ≠ m) (s : State) : (s.missAt n).peerAt m = s.peerAt m := by
  have hput : ∀ p, (s.putPeer n p).peerAt m = s.peerAt m := s.putPeer_peerAt_other h
  unfold State.missAt
  split
  · split
    · exact hput _
    · split
      · rw [State.loseVoter_peerAt, hput]
      · split
        · rw [State.loseVoter_peerAt]
          exact hput _
        · exact hput _
      all_goals rfl
  · rfl

/-- What the third miss makes of an entry. -/
def Peer.silenced (p : Peer) : Peer := { p.useOffset with state := .silent, misses := 3 }

theorem Peer.fallsSilent_of_third {p : Peer} (hlive : p.state = .live) (hseen : p.seen = false) (hmisses : p.misses = 2) :
    p.fallsSilent = true := by
  rw [Peer.fallsSilent, hlive, hseen, hmisses]
  rfl

theorem State.missAt_of_fallsSilent {s : State} {n : Nat} {p : Peer} (hp : s.peerAt n = some p) (h : p.fallsSilent = true) :
    (s.missAt n).peerAt n = some p.silenced := by
  obtain ⟨⟨hlive, hseen⟩, -⟩ : (p.state = .live ∧ p.seen = false) ∧ 3 ≤ p.misses + 1 := by
    simpa [Peer.fallsSilent] using h
  have hmiss : s.missAt n = ((s.putPeer n p.silenced).post .peerSilent (some (stationOf n))).loseVoter (stationOf n) := by
    rw [State.missAt, hp]
    simp [hseen, hlive, h, Peer.silenced]
  rw [hmiss, State.loseVoter_peerAt]
  exact State.putPeer_peerAt_same hp _

/-- The miss count does to an entry what its own step does. -/
theorem State.missCount_of_fallsSilent {s : State} {n : Nat} {p : Peer} (hp : s.peerAt n = some p) (h : p.fallsSilent = true) :
    s.missCount.peerAt n = some p.silenced :=
  foldl_around (I := fun t : State => t.peerAt n = some p) (J := fun t : State => t.peerAt n = some p.silenced) (w := n)
    (fun _ _ hm ht => (State.missAt_peerAt_other hm _).trans ht) (fun _ ht => State.missAt_of_fallsSilent ht h)
    (fun _ _ hm ht => (State.missAt_peerAt_other hm _).trans ht) (List.range 32) s List.nodup_range
    (List.mem_range.2 (State.peerAt_lt hp).1) hp

theorem State.mem_fallingSilent {s : State} {n : Nat} {p : Peer} (hp : s.peerAt n = some p) (h : p.fallsSilent = true) :
    stationOf n ∈ s.fallingSilent := by
  have hmem : (n, p) ∈ s.peerList := by
    rw [State.peerList, List.mem_filterMap]
    exact ⟨n, List.mem_range.2 (State.peerAt_lt hp).1, by rw [hp]; rfl⟩
  exact List.mem_map.2 ⟨(n, p), List.mem_filter.2 ⟨hmem, h⟩, rfl⟩

/-! ### The frame start -/

/-- The entry of a peer that has missed two frames, before the miss count. -/
def FrameRun.missesTwice (n : Nat) (p : Peer) (x : FrameRun) : Prop :=
  ∃ q, x.state.peerAt n = some q ∧ p.steady q

/-- The entry has fallen silent, and the run has noted it. -/
def FrameRun.fellSilent (peer : Station) (p : Peer) (x : FrameRun) : Prop :=
  x.silenced.contains peer = true ∧ ∃ q, x.state.peerAt peer.toNat = some q ∧ p.silenced.steady q

theorem Peer.steady.silenced {p q : Peer} (h : p.steady q) : p.silenced.steady q.silenced := by
  obtain ⟨-, hseen, -, hreported, hoffset, hverdict⟩ := h
  have hused : q.useOffset.offset = p.useOffset.offset := by
    rcases hoffset with h | h
    · simp only [Peer.useOffset, h]
    · rw [← Peer.useOffset_useOffset p]
      simp only [Peer.useOffset, h]
  exact ⟨rfl, hseen, rfl, hreported, .inl hused, hverdict⟩

theorem State.peersMiss_frameStart {s : State} {peer : Station} {p : Peer} (order : List FrameWork)
    (hp : s.peerAt peer.toNat = some p) (hlive : p.state = .live) (hseen : p.seen = false) (hmisses : p.misses = 2) :
    ∃ x : FrameRun, s.frameStart order = x.update State.latchFrame ∧ x.fellSilent peer p := by
  refine State.frameStart_at (I := FrameRun.missesTwice peer.toNat p) .missCount order (s.advanceFrame_steady.onward _ _ hp) ?_ ?_ ?_
  · rintro v x hv ⟨q, hq, hpq⟩
    obtain ⟨r, hr, hqr⟩ := (x.work_steady hv).onward _ _ hq
    exact ⟨r, hr, Peer.steady_trans hpq hqr⟩
  · rintro x ⟨q, hq, hpq⟩
    obtain ⟨hstate, hseen', hmisses', -⟩ := id hpq
    have hfalls := Peer.fallsSilent_of_third (hstate.trans hlive) (hseen'.trans hseen) (hmisses'.trans hmisses)
    have hmem := State.mem_fallingSilent hq hfalls
    rw [stationOf_toNat] at hmem
    have hat := State.missCount_of_fallsSilent hq hfalls
    refine ⟨?_, q.silenced, ?_, Peer.steady.silenced hpq⟩
    · dsimp only [FrameRun.work]
      exact List.contains_iff_mem.2 hmem
    · dsimp only [FrameRun.work]
      exact hat
  · rintro v x hv ⟨hsilenced, q, hq, hpq⟩
    obtain ⟨r, hr, hqr⟩ := (x.work_steady hv).onward _ _ hq
    exact ⟨by rw [x.work_silenced hv]; exact hsilenced, r, hr, Peer.steady_trans hpq hqr⟩

end Sys2Proof.Machine

namespace Sys2Proof

open Sys2Proof.Machine

/-- Settles O17: the work before the miss count leaves the liveness and the misses, and so does the work after it. -/
theorem threeMissesMakeAPeerSilent : Obligations.ThreeMissesMakeAPeerSilent := by
  unfold Obligations.ThreeMissesMakeAPeerSilent
  intro peer order s p hrunning hne hp hlive hseen hmisses
  have hat : s.peerAt peer.toNat = some p := State.peerAt_of_sender hne hp
  obtain ⟨x, hx, hsilenced, q, hq, hstate, hseen', hmisses', hreported, hoffset, -⟩ :=
    State.peersMiss_frameStart order hat hlive hseen hmisses
  refine ⟨(s.frameStart order).state, q, ?_, ?_, hstate, hmisses', hseen'.trans hseen, hreported, ?_⟩
  · exact congrArg Host.Outcome.next (State.frameStartWith_of_event hrunning (by rw [hx]; exact hsilenced))
  · rw [hx]
    exact (State.peerAt_lt hq).2.2
  · have hused : p.silenced.useOffset.offset = p.useOffset.offset := by
      show p.useOffset.useOffset.offset = _
      rw [p.useOffset_useOffset]
    rcases hoffset with h | h
    · exact h
    · exact h.trans hused

end Sys2Proof

/-!
# Frame starts that leave the role

While no adopt is decided, no dump is applied and the station is not promoted, every piece but the two waits leaves the Role
Controller to itself.
-/

namespace Sys2Proof.Machine

open Sys2Proof

/-- The condition of R120. -/
def State.mayJoin (s : State) : Prop :=
  s.ctl.role = .align ∧ s.wall.valid = true ∧ s.ctl.stale = false ∧ s.catchUp.req.state = .idle ∧ s.timer.lock = .locked

/-- No verdict stands, and the counts of R124 are at rest. -/
def State.uncontested (s : State) : Prop :=
  s.noVerdict ∧ s.ctl.strikes = 0 ∧ s.ctl.ties = 0 ∧ s.ctl.split = .armed

/-- A frame start at which nothing is due but the waits and the apply of a dump. -/
structure FrameRun.Unmoved (x : FrameRun) : Prop where
  adopt : x.adopt = none
  promotes : ¬ x.state.mayJoin
  counts : x.state.ctl.role = .member → x.state.uncontested

/-- A frame start at which nothing is due but the waits. -/
structure FrameRun.Still (x : FrameRun) : Prop extends x.Unmoved where
  waits : x.waited = true ∨ x.state.ctl.role ≠ .listen
  pending : x.state.catchUp.req.state ≠ .applyPending

theorem State.promotion_of_not {s : State} (h : ¬ s.mayJoin) : s.promotion = s := by
  rw [s.promotion_eq]
  exact if_neg h

theorem FrameRun.foundFirst_of_done {x : FrameRun} (h : x.waited = true ∨ x.state.ctl.role ≠ .listen) : x.foundFirst = x := by
  rcases h with h | h
  · exact FrameRun.foundFirst_of_waited h
  · exact FrameRun.foundFirst_of_not_listen h

/-! ### The verdicts -/

theorem State.verdicts_of_noVerdict {s : State} (h : s.noVerdict) {v : Verdict} (hv : v ≠ .none) : s.verdicts v = 0 := by
  rw [s.verdicts_eq, List.length_eq_zero_iff, List.filter_eq_nil_iff]
  intro n _ hn
  obtain ⟨hne, hat⟩ : n ≠ s.cfg.station.toNat ∧ s.peers[n]?.map (·.verdict) = some v := by simpa using hn
  obtain ⟨p, hp, hpv⟩ := Option.map_eq_some_iff.1 hat
  exact hv (hpv.symm.trans (h n p ((State.peerAt_of_ne hne).trans hp)))

theorem RoleControl.counts_at_rest {c : RoleControl} (hstrikes : c.strikes = 0) (hties : c.ties = 0) (hsplit : c.split = .armed) :
    { c with strikes := 0, ties := 0, split := .armed } = c := by
  cases c
  cases hstrikes
  cases hties
  cases hsplit
  rfl

/-- R124: without a verdict the counts go to rest. -/
theorem State.verdictWork_of_noVerdict {s : State} (hrole : s.ctl.role = .member) (h : s.noVerdict) :
    s.verdictWork = { s.clearVerdicts with ctl := { s.ctl with strikes := 0, ties := 0, split := .armed } } := by
  rw [State.verdictWork_of_member hrole]
  exact State.countVerdicts_of_clear (State.verdicts_of_noVerdict h (nofun : Verdict.differ ≠ .none))

theorem Mild.verdictWork {s : State} (h : s.ctl.role = .member → s.uncontested) : Mild s s.verdictWork := by
  by_cases hrole : s.ctl.role = .member
  · obtain ⟨hnone, hstrikes, hties, hsplit⟩ := h hrole
    have hsame : s.verdictWork = s.clearVerdicts := by
      rw [State.verdictWork_of_noVerdict hrole hnone, RoleControl.counts_at_rest hstrikes hties hsplit]
      rfl
    rw [hsame]
    exact Mild.clearVerdicts s
  · rw [State.verdictWork_of_other hrole]
    exact Mild.clearVerdicts s

/-! ### Every piece -/

/-- The pieces before which a founding comes in LISTEN (R11). -/
def FrameWork.founding : List FrameWork := [.foundingWait, .dumpApply, .applications]

theorem FrameRun.Unmoved.work_mild {x : FrameRun} (h : x.Unmoved) {w : FrameWork} (hw : w ∉ FrameWork.founding)
    (hidle : w = .catchUpWaits → x.state.catchUp.req.state = .idle) : Mild x.state (x.work w).state := by
  cases w with
  | frameTimer => exact Mild.timerWork x.state
  | editRenumber =>
    show Mild x.state x.dropRenumbered.state
    rw [FrameRun.dropRenumbered_of_none h.adopt]
    exact Mild.refl _
  | roleAdopt =>
    show Mild x.state x.handOver.state
    rw [FrameRun.handOver_of_none h.adopt]
    exact Mild.refl _
  | missCount =>
    have hm := Mild.missCount x.state
    dsimp only [FrameRun.work]
    exact hm
  | verdictCount => exact Mild.verdictWork h.counts
  | promotion =>
    show Mild x.state x.state.promotion
    rw [State.promotion_of_not h.promotes]
    exact Mild.refl _
  | foundingWait | dumpApply | applications => exact absurd (by decide) hw
  | ownDeadlines =>
    dsimp only [FrameRun.work, FrameRun.update]
    exact Mild.ownDeadlines x.state
  | collectionDeadlines =>
    dsimp only [FrameRun.work, FrameRun.update]
    exact Mild.collectionDeadlines x.state
  | queryWaits =>
    dsimp only [FrameRun.work]
    exact Mild.queryWaits x.state
  | goInDoubt =>
    dsimp only [FrameRun.work, FrameRun.update]
    exact Mild.goInDoubt x.state
  | observerExpiry =>
    dsimp only [FrameRun.work, FrameRun.update]
    exact Mild.observerExpiry x.state
  | catchUpWaits =>
    show Mild x.state x.state.catchUpWaits
    rw [State.catchUpWaits_of_resting (.inl (hidle rfl))]
    exact Mild.refl _
  | beaconRenewal => exact Mild.beaconRenewal x.state

theorem FrameRun.Still.work_mild {x : FrameRun} (h : x.Still) {w : FrameWork} (hwait : w = .foundingWait → x.waited = true)
    (hidle : w = .catchUpWaits → x.state.catchUp.req.state = .idle) : Mild x.state (x.work w).state := by
  have hfirst : x.foundFirst = x := FrameRun.foundFirst_of_done h.waits
  by_cases hw : w ∈ FrameWork.founding
  · cases w with
    | foundingWait =>
      show Mild x.state x.wait.state
      rw [FrameRun.wait_of_waited (hwait rfl)]
      exact Mild.refl _
    | dumpApply =>
      show Mild x.state x.foundFirst.state.dumpApply
      rw [hfirst, State.dumpApply_of_not_pending h.pending]
      exact Mild.refl _
    | applications =>
      dsimp only [FrameRun.work, FrameRun.update]
      rw [hfirst]
      exact Mild.applications x.state
    | _ => exact absurd hw (by decide)
  · exact h.toUnmoved.work_mild hw hidle

/-- The run notes of the founding wait what it did. -/
def FrameRun.sameWait (x y : FrameRun) : Prop :=
  y.waited = x.waited ∧ y.founded = x.founded ∧ y.alignExpired = x.alignExpired

theorem FrameRun.sameWait_update {x y : FrameRun} (h : x.sameWait y) (f : State → State) : x.sameWait (y.update f) := h

theorem FrameRun.work_sameWait {w : FrameWork} {x : FrameRun} (hw : w = .foundingWait → x.waited = true)
    (h : x.waited = true ∨ x.state.ctl.role ≠ .listen) : x.sameWait (x.work w) := by
  have hrefl : x.sameWait x := ⟨rfl, rfl, rfl⟩
  cases w with
  | foundingWait =>
    show x.sameWait x.wait
    rw [FrameRun.wait_of_waited (hw rfl)]
    exact hrefl
  | editRenumber =>
    show x.sameWait x.dropRenumbered
    unfold FrameRun.dropRenumbered
    split
    · exact FrameRun.sameWait_update hrefl _
    · exact hrefl
    · exact hrefl
  | roleAdopt =>
    show x.sameWait x.handOver
    unfold FrameRun.handOver
    split
    · exact FrameRun.sameWait_update hrefl _
    · exact FrameRun.sameWait_update hrefl _
    · exact hrefl
  | dumpApply | applications =>
    have hfirst : x.sameWait x.foundFirst := by
      rw [FrameRun.foundFirst_of_done h]
      exact hrefl
    exact FrameRun.sameWait_update hfirst _
  | frameTimer | missCount | queryWaits | catchUpWaits =>
    dsimp only [FrameRun.work]
    exact ⟨rfl, rfl, rfl⟩
  | _ => exact FrameRun.sameWait_update hrefl _

/-- R98, R109: without a LIVE peer no adopt comes at any piece. -/
theorem FrameRun.work_adopt_of_noneLive {x : FrameRun} (hlive : x.state.noneLive) (h : x.adopt = none) (w : FrameWork) :
    (x.work w).adopt = none := by
  by_cases hw : w = .frameTimer
  · subst hw
    exact (State.timerWork_of_noneLive hlive).1
  · rw [x.work_adopt hw]
    exact h

end Sys2Proof.Machine

/-!
# The waits of the requester (R133, R135, R137)

In ALIGN with no LIVE peer, the work besides the waits of the requester leaves its wait as it is.
-/

namespace Sys2Proof.Machine

open Sys2Proof

/-- A frame start in ALIGN that the founding wait does not end, at which the requester is at work with the context r. -/
structure FrameRun.Requesting (r : Requester) (buffer : Vector (Option Colour) 256) (x : FrameRun) : Prop where
  adopt : x.adopt = none
  live : x.state.noneLive
  role : x.state.ctl.role = .align
  early : x.waited = false → x.state.ctl.foundingWait < 31
  req : ∃ m, x.state.catchUp.req = { r with missed := m }
  buffer : x.state.catchUp.buffer = buffer

section
variable {r : Requester} {buffer : Vector (Option Colour) 256} {x : FrameRun}

theorem FrameRun.Requesting.reqState (h : x.Requesting r buffer) : x.state.catchUp.req.state = r.state := by
  obtain ⟨m, hm⟩ := h.req
  rw [hm]

theorem FrameRun.Requesting.still (h : x.Requesting r buffer) (hidle : r.state ≠ .idle) (hpending : r.state ≠ .applyPending) :
    x.Still where
  adopt := h.adopt
  waits := .inr (by rw [h.role]; exact nofun)
  pending := by
    rw [h.reqState]
    exact hpending
  promotes := by
    rintro ⟨-, -, -, hstate, -⟩
    exact hidle (h.reqState.symm.trans hstate)
  counts := fun hmember => absurd (h.role.symm.trans hmember) nofun

theorem State.memberLive_of_noneLive {s : State} (h : s.noneLive) : s.memberLive = false := by
  rw [← Bool.not_eq_true, State.memberLive_iff]
  rintro ⟨n, p, hp, hlive, -⟩
  exact h n p hp hlive

/-- The founding wait counts on. -/
theorem FrameRun.Requesting.wait (h : x.Requesting r buffer) : x.wait.Requesting r buffer := by
  cases hwaited : x.waited with
  | true =>
    rw [FrameRun.wait_of_waited hwaited]
    exact h
  | false =>
    obtain ⟨hadopt, -⟩ := x.wait_sameMarks
    have hearly := h.early hwaited
    have hwork : x.wait.state
        = { x.state with ctl := { x.state.ctl with foundingWait := x.state.ctl.foundingWait + 1 } } := by
      rw [x.wait_state, hwaited, if_neg Bool.false_ne_true]
      exact State.waitWork_of_early (.inr h.role) (State.memberLive_of_noneLive h.live) (by omega)
    have hdone : x.wait.waited = true := by
      rw [FrameRun.wait, hwaited, if_neg Bool.false_ne_true]
    refine ⟨hadopt.trans h.adopt, ?_, ?_, fun hw => absurd (hdone.symm.trans hw) nofun, ?_, ?_⟩ <;> rw [hwork]
    · exact h.live
    · exact h.role
    · exact h.req
    · exact h.buffer

theorem FrameRun.Requesting.work (h : x.Requesting r buffer) (hidle : r.state ≠ .idle) (hpending : r.state ≠ .applyPending)
    {w : FrameWork} (hw : w ≠ .catchUpWaits) : (x.work w).Requesting r buffer := by
  by_cases hwait : w = .foundingWait
  · subst hwait
    exact h.wait
  · have hstill := h.still hidle hpending
    have hmild := hstill.work_mild (fun h => absurd h hwait) (fun h => absurd h hw)
    obtain ⟨hwaited, -⟩ := FrameRun.work_sameWait (fun h => absurd h hwait) hstill.waits
    obtain ⟨m, hm⟩ := h.req
    obtain ⟨m', hm'⟩ := hmild.req
    exact ⟨FrameRun.work_adopt_of_noneLive h.live h.adopt w, hmild.peers.noneLive h.live, by rw [hmild.ctl]; exact h.role,
      fun hx => by rw [hmild.ctl]; exact h.early (hwaited.symm.trans hx), ⟨m', by rw [hm', hm]⟩, hmild.buffer.trans h.buffer⟩

/-- The waits of the requester leave the rest of the run, whatever they make of the context. -/
theorem FrameRun.Requesting.catchUpWaits {r' : Requester} {buffer' : Vector (Option Colour) 256} (h : x.Requesting r buffer)
    (hreq : ∃ m, x.state.catchUpWaits.catchUp.req = { r' with missed := m })
    (hbuffer : x.state.catchUpWaits.catchUp.buffer = buffer') : (x.work .catchUpWaits).Requesting r' buffer' := by
  obtain ⟨-, -, -, -, hctl⟩ := x.state.catchUpWaits_rest
  refine ⟨h.adopt, ?_, ?_, ?_, hreq, hbuffer⟩
  · exact (PeersRel.fades_of_steady x.state.catchUpWaits_steady).noneLive h.live
  · show x.state.catchUpWaits.ctl.role = .align
    rw [hctl]
    exact h.role
  · show x.waited = false → x.state.catchUpWaits.ctl.foundingWait < 31
    rw [hctl]
    exact h.early

end

/-! ### A frame start at which a wait runs out -/

/-- The context before the waits, and the one they leave, seen through a whole frame start. -/
theorem State.requesting_frameStart {r : Requester} {buffer : Vector (Option Colour) 256} {marks : FrameRun → Prop} {s : State} (order : List FrameWork)
    (hrole : s.ctl.role = .align) (hwait : s.ctl.foundingWait < 31) (hlive : s.noneLive)
    (hidle : s.catchUp.req.state ≠ .idle) (hpending : s.catchUp.req.state ≠ .applyPending)
    (hidle' : r.state ≠ .idle) (hpending' : r.state ≠ .applyPending)
    (hat : ∀ x : FrameRun, x.Requesting s.catchUp.req s.catchUp.buffer → (x.work .catchUpWaits).Requesting r buffer ∧ marks (x.work .catchUpWaits))
    (hmarks : ∀ v (x : FrameRun), v ≠ .catchUpWaits → marks x → marks (x.work v)) :
    ∃ x : FrameRun, s.frameStart order = x.update State.latchFrame ∧ x.Requesting r buffer ∧ marks x := by
  obtain ⟨-, -, hctl, -, -, hcatchUp, -⟩ := s.advanceFrame_rest
  refine State.frameStart_at (I := FrameRun.Requesting s.catchUp.req s.catchUp.buffer)
    (J := fun x => x.Requesting r buffer ∧ marks x) .catchUpWaits order ?_
    (fun v x hv hx => hx.work hidle hpending hv) hat
    (fun v x hv hx => ⟨hx.1.work hidle' hpending' hv, hmarks v x hv hx.2⟩)
  refine ⟨rfl, (PeersRel.fades_of_steady s.advanceFrame_steady).noneLive hlive, ?_, fun _ => ?_, ⟨s.catchUp.req.missed, ?_⟩, ?_⟩
  · exact (congrArg (·.role) hctl).trans hrole
  · exact (congrArg (·.foundingWait) hctl).trans_lt hwait
  · exact congrArg (·.req) hcatchUp
  · exact congrArg (·.buffer) hcatchUp

/-- The context after a failed try (R133, R137). -/
def Requester.failed (r : Requester) : Requester :=
  if r.tries + 1 < 4 then
    { r with
      tries := r.tries + 1, askWait := none, responder := none, header := none, received := [], receiveWait := none,
      state := .asking, owed := some ⟨.dumpRequest, 0⟩ }
  else
    { r with
      tries := r.tries + 1, askWait := none, responder := none, header := none, received := [], receiveWait := none,
      state := .retryWait, retryWait := some 64, owed := none }

theorem Requester.failed_asks (r : Requester) : r.failed.state = .asking ∨ r.failed.state = .retryWait := by
  unfold Requester.failed
  split
  · exact .inl rfl
  · exact .inr rfl

theorem State.failedTry_req {s : State} {r : Requester} (h : ∃ m, s.catchUp.req = { r with missed := m }) :
    (∃ m, s.failedTry.catchUp.req = { r.failed with missed := m }) ∧ s.failedTry.catchUp.buffer = emptyBuffer := by
  obtain ⟨m, hm⟩ := h
  have htries : s.catchUp.req.tries = r.tries := by rw [hm]
  unfold Requester.failed
  by_cases hearly : s.catchUp.req.tries + 1 < 4
  · obtain ⟨hcatchUp, -⟩ := State.failedTry_of_early hearly
    rw [hcatchUp, if_pos (by rw [← htries]; exact hearly)]
    exact ⟨⟨m, by rw [hm]⟩, rfl⟩
  · obtain ⟨hcatchUp, -⟩ := State.failedTry_of_fourth (s := s) (by omega)
    rw [hcatchUp, if_neg (by rw [← htries]; exact hearly)]
    exact ⟨⟨m, by rw [hm]⟩, rfl⟩

/-- The context at the start of a cycle (R137). -/
def Requester.cycled (r : Requester) : Requester :=
  { r.discard with state := .asking, tries := 0, retryWait := none, owed := some ⟨.dumpRequest, 0⟩ }

theorem State.beginCycle_req {s : State} {r : Requester} (h : ∃ m, s.catchUp.req = { r with missed := m }) :
    (∃ m, s.beginCycle.catchUp.req = { r.cycled with missed := m }) ∧ s.beginCycle.catchUp.buffer = emptyBuffer := by
  obtain ⟨m, hm⟩ := h
  refine ⟨⟨m, ?_⟩, rfl⟩
  show { s.catchUp.req.discard with
    state := .asking, tries := 0, retryWait := none, owed := some ⟨.dumpRequest, 0⟩ } = _
  rw [hm]
  rfl

/-- The wait of a try, and the mark of the run for its end. -/
theorem State.tryFails_frameStart {mark : FrameRun → Bool} {s : State} (order : List FrameWork) (hrole : s.ctl.role = .align)
    (hwait : s.ctl.foundingWait < 31) (hlive : s.noneLive)
    (hstate : s.catchUp.req.state = .asking ∨ s.catchUp.req.state = .receiving)
    (hat : ∀ x : FrameRun, x.Requesting s.catchUp.req s.catchUp.buffer → x.state.tryFails ∧ mark (x.work .catchUpWaits) = true)
    (hmark : ∀ v (x : FrameRun), v ≠ .catchUpWaits → mark (x.work v) = mark x)
    (hlatch : ∀ x : FrameRun, mark (x.update State.latchFrame) = mark x) :
    ∃ x : FrameRun, s.frameStart order = x.update State.latchFrame ∧ x.Requesting s.catchUp.req.failed emptyBuffer
      ∧ mark (s.frameStart order) = true := by
  have hnot : ∀ st, st = RequesterState.asking ∨ st = .receiving → st ≠ .idle ∧ st ≠ .applyPending := by
    rintro st (rfl | rfl) <;> exact ⟨nofun, nofun⟩
  have hnot' : ∀ st, st = RequesterState.asking ∨ st = .retryWait → st ≠ .idle ∧ st ≠ .applyPending := by
    rintro st (rfl | rfl) <;> exact ⟨nofun, nofun⟩
  obtain ⟨hidle, hpending⟩ := hnot _ hstate
  obtain ⟨hidle', hpending'⟩ := hnot' _ s.catchUp.req.failed_asks
  have hdone : ∀ x : FrameRun, x.Requesting s.catchUp.req s.catchUp.buffer →
      (x.work .catchUpWaits).Requesting s.catchUp.req.failed emptyBuffer ∧ mark (x.work .catchUpWaits) = true := fun x hx => by
    obtain ⟨hfails, hx'⟩ := hat x hx
    have hwork := State.catchUpWaits_of_fails hfails
    obtain ⟨hreq, hbuffer⟩ := State.failedTry_req hx.req
    exact ⟨hx.catchUpWaits (by rw [hwork]; exact hreq) (by rw [hwork]; exact hbuffer), hx'⟩
  obtain ⟨y, hy, hyreq, hymark⟩ := State.requesting_frameStart (marks := fun x => mark x = true)
    order hrole hwait hlive hidle hpending hidle' hpending' hdone fun v x hv hx => (hmark v x hv).trans hx
  exact ⟨y, hy, hyreq, by rw [hy, hlatch]; exact hymark⟩

end Sys2Proof.Machine

namespace Sys2Proof

open Sys2Proof.Machine

/-- Settles O21. -/
theorem requesterWaitsExpireAsFailedTries : Obligations.RequesterWaitsExpireAsFailedTries := by
  unfold Obligations.RequesterWaitsExpireAsFailedTries
  intro order s hrunning hrole hwait hlive
  refine ⟨fun i hi => ?_, fun hstate hretry => ?_⟩
  · obtain ⟨mark, hexec, x, hx, hreq, hmark⟩ : ∃ mark : FrameRun → Bool, exec i s = .next (s.frameStartWith order mark)
        ∧ ∃ x : FrameRun, s.frameStart order = x.update State.latchFrame ∧ x.Requesting s.catchUp.req.failed emptyBuffer
          ∧ mark (s.frameStart order) = true := by
      rcases hi with ⟨rfl, hstate, hask⟩ | ⟨rfl, hstate, hreceive⟩
      · refine ⟨_, rfl, State.tryFails_frameStart (mark := fun x => x.askExpired) order hrole hwait hlive (.inl hstate) ?_
          (fun v x hv => (x.work_expired hv).1) fun _ => rfl⟩
        rintro x hx
        obtain ⟨m, hm⟩ := hx.req
        have hdue : x.state.catchUp.req.state = .asking ∧ ∃ w, x.state.catchUp.req.askWait = some w ∧ w ≤ 1 := by
          rw [hm]
          exact ⟨hstate, 1, hask, le_rfl⟩
        exact ⟨.inl hdue, State.askExpires_iff.2 hdue⟩
      · refine ⟨_, rfl, State.tryFails_frameStart (mark := fun x => x.receiveExpired) order hrole hwait hlive (.inr hstate) ?_
          (fun v x hv => (x.work_expired hv).2.1) fun _ => rfl⟩
        rintro x hx
        obtain ⟨m, hm⟩ := hx.req
        have hdue : x.state.catchUp.req.state = .receiving ∧ ∃ w, x.state.catchUp.req.receiveWait = some w ∧ w ≤ 1 := by
          rw [hm]
          exact ⟨hstate, 1, hreceive, le_rfl⟩
        exact ⟨.inr ⟨hdue.1, .inl hdue.2⟩, State.receiveExpires_iff.2 hdue⟩
    obtain ⟨m, hm⟩ := hreq.req
    have hbuffer := hreq.buffer
    refine ⟨(s.frameStart order).state, ?_, ?_⟩
    · rw [hexec]
      exact congrArg Host.Outcome.next (State.frameStartWith_of_event hrunning hmark)
    · have hcatchUp : (s.frameStart order).state.catchUp = x.state.catchUp := by rw [hx]; rfl
      rw [hcatchUp, hm, hbuffer]
      unfold Requester.failed
      by_cases hearly : s.catchUp.req.tries + 1 < 4
      · rw [if_pos hearly]
        exact ⟨rfl, rfl, rfl, rfl, rfl, rfl, rfl, fun _ => ⟨rfl, rfl⟩, fun h => absurd hearly (by omega)⟩
      · rw [if_neg hearly]
        exact ⟨rfl, rfl, rfl, rfl, rfl, rfl, rfl, fun h => absurd h hearly, fun _ => ⟨rfl, rfl, rfl⟩⟩
  · obtain ⟨x, hx, hreq, hmark⟩ := State.requesting_frameStart (r := s.catchUp.req.cycled) (buffer := emptyBuffer)
      (marks := fun x => x.retryExpired = true) order hrole hwait hlive (by rw [hstate]; exact nofun) (by rw [hstate]; exact nofun)
      (nofun : RequesterState.asking ≠ .idle) (nofun : RequesterState.asking ≠ .applyPending)
      (fun x hx => by
        obtain ⟨m, hm⟩ := hx.req
        have hstate' : x.state.catchUp.req.state = .retryWait := hx.reqState.trans hstate
        have hdue : ∃ w, x.state.catchUp.req.retryWait = some w ∧ w ≤ 1 := by
          rw [hm]
          exact ⟨1, hretry, le_rfl⟩
        have hwork := State.catchUpWaits_of_cycle hstate' hdue
        obtain ⟨hreq, hbuffer⟩ := State.beginCycle_req hx.req
        exact ⟨hx.catchUpWaits (by rw [hwork]; exact hreq) (by rw [hwork]; exact hbuffer), State.retryExpires_iff.2 ⟨hstate', hdue⟩⟩)
      fun v x hv hx => (x.work_expired hv).2.2.trans hx
    obtain ⟨m, hm⟩ := hreq.req
    refine ⟨(s.frameStart order).state, ?_, ?_⟩
    · exact congrArg Host.Outcome.next (State.frameStartWith_of_event hrunning (by rw [hx]; exact hmark))
    · have hcatchUp : (s.frameStart order).state.catchUp = x.state.catchUp := by rw [hx]; rfl
      rw [hcatchUp, hm]
      exact ⟨rfl, rfl, rfl, rfl, rfl⟩

end Sys2Proof

/-!
# The founding wait of a station in ALIGN runs out (R121, R122)
-/

namespace Sys2Proof.Machine

open Sys2Proof

/-- The waits of the requester bring no header of a dump. -/
theorem State.catchUpWaits_not_pending {s : State} (h : s.catchUp.req.state ≠ .applyPending) :
    s.catchUpWaits.catchUp.req.state ≠ .applyPending := by
  unfold State.catchUpWaits
  split
  · obtain ⟨⟨m, hm⟩, -⟩ := State.failedTry_req (s := s) ⟨s.catchUp.req.missed, rfl⟩
    rw [hm]
    rcases s.catchUp.req.failed_asks with hstate | hstate <;> exact fun hpending => absurd (hstate.symm.trans hpending) nofun
  · split
    · exact (nofun : RequesterState.asking ≠ .applyPending)
    · dsimp only
      split <;> exact h

/-- Before the expiry, at a station that hears nothing: nothing else can end ALIGN. -/
structure FrameRun.Expiring (v : Bool) (x : FrameRun) : Prop where
  adopt : x.adopt = none
  waited : x.waited = false
  live : x.state.noneLive
  verdict : x.state.noVerdict
  role : x.state.ctl.role = .align
  wait : x.state.ctl.foundingWait = 31
  pending : x.state.catchUp.req.state ≠ .applyPending
  valid : x.state.wall.valid = v
  holds : v = true → x.state.ctl.stale = true ∨ x.state.timer.lock ≠ .locked

/-- What the expiry makes of the role. -/
def State.expiredTo (s : State) : Bool → Prop
  | true => s.ctl.role = .member ∧ s.ctl.strikes = 0 ∧ s.ctl.ties = 0 ∧ s.ctl.split = .armed
  | false => s.ctl.role = .listen ∧ s.timer.lock = .free ∧ s.bus.beacon = none

/-- After the expiry. -/
structure FrameRun.Expired (v : Bool) (x : FrameRun) : Prop where
  adopt : x.adopt = none
  waited : x.waited = true
  noted : x.alignExpired = true
  live : x.state.noneLive
  verdict : x.state.noVerdict
  stale : x.state.ctl.stale = false
  wait : x.state.ctl.foundingWait = 0
  req : x.state.catchUp.req = Requester.reset
  valid : x.state.wall.valid = v
  outcome : x.state.expiredTo v

section
variable {v : Bool} {x : FrameRun}

theorem FrameRun.Expiring.still (h : x.Expiring v) : x.Still where
  adopt := h.adopt
  waits := .inr (by rw [h.role]; exact nofun)
  pending := h.pending
  promotes := by
    rintro ⟨-, hvalid, hstale, -, hlock⟩
    rcases h.holds (h.valid.symm.trans hvalid) with hheld | hheld
    · exact absurd (hheld.symm.trans hstale) nofun
    · exact hheld hlock
  counts := fun hmember => absurd (h.role.symm.trans hmember) nofun

theorem FrameRun.Expiring.of_mild {y : FrameRun} (h : x.Expiring v) (hadopt : y.adopt = none) (hwaited : y.waited = x.waited)
    (hmild : Mild x.state y.state) : y.Expiring v where
  adopt := hadopt
  waited := hwaited.trans h.waited
  live := hmild.peers.noneLive h.live
  verdict := hmild.peers.noVerdict h.verdict
  role := (congrArg (·.role) hmild.ctl).trans h.role
  wait := (congrArg (·.foundingWait) hmild.ctl).trans h.wait
  pending := by
    rw [hmild.reqState]
    exact h.pending
  valid := hmild.valid.trans h.valid
  holds := fun hv => by
    rw [hmild.ctl]
    refine (h.holds hv).imp_right fun hnot => ?_
    rcases hmild.lock h.live with hlock | hlock
    · rw [hlock]
      exact hnot
    · rw [hlock]
      exact nofun

theorem FrameRun.Expiring.catchUpWaits (h : x.Expiring v) : (x.work .catchUpWaits).Expiring v := by
  obtain ⟨hwall, -, -, htimer, hctl⟩ := x.state.catchUpWaits_rest
  have hpeers := PeersRel.fades_of_steady x.state.catchUpWaits_steady
  exact ⟨h.adopt, h.waited, hpeers.noneLive h.live, hpeers.noVerdict h.verdict, (congrArg (·.role) hctl).trans h.role,
    (congrArg (·.foundingWait) hctl).trans h.wait, State.catchUpWaits_not_pending h.pending, (congrArg (·.valid) hwall).trans h.valid,
    fun hv => (h.holds hv).imp (congrArg (·.stale) hctl).trans fun hnot hlock => hnot ((congrArg (·.lock) htimer).symm.trans hlock)⟩

theorem FrameRun.Expiring.work (h : x.Expiring v) {w : FrameWork} (hw : w ≠ .foundingWait) : (x.work w).Expiring v := by
  by_cases hreq : w = .catchUpWaits
  · subst hreq
    exact h.catchUpWaits
  · obtain ⟨hwaited, -⟩ := FrameRun.work_sameWait (fun hx => absurd hx hw) h.still.waits
    exact h.of_mild (FrameRun.work_adopt_of_noneLive h.live h.adopt w) hwaited
      (h.still.work_mild (fun hx => absurd hx hw) fun hx => absurd hx hreq)

/-- R121, R122: the expiry itself. -/
theorem FrameRun.Expiring.expires (h : x.Expiring v) : (x.work .foundingWait).Expired v := by
  have hevent := State.waitEvent_of_alignExpiry h.role (State.memberLive_of_noneLive h.live) (by rw [h.wait])
  have hnot : ¬ x.waited = true := by
    rw [h.waited]
    exact nofun
  have hrun : x.work .foundingWait = { x with
      state := x.state.waitWork, waited := true
      founded := x.state.waitEvent = .founding, alignExpired := x.state.waitEvent = .alignExpiry } := if_neg hnot
  have hpeers := PeersRel.fades_of_steady x.state.waitWork_steady
  have hlive := hpeers.noneLive h.live
  have hverdict := hpeers.noVerdict h.verdict
  have hvalid := h.valid
  have hadopt := h.adopt
  rw [hrun, hevent, State.waitWork_of_alignExpiry hevent]
  rw [State.waitWork_of_alignExpiry hevent] at hlive hverdict
  cases v with
  | true =>
    obtain ⟨table, hexpiry⟩ := State.alignExpiry_of_valid hvalid
    rw [hexpiry] at hlive hverdict ⊢
    exact ⟨hadopt, rfl, rfl, hlive, hverdict, rfl, rfl, rfl, hvalid, rfl, rfl, rfl, rfl⟩
  | false =>
    obtain ⟨table, hexpiry⟩ := State.alignExpiry_of_invalid hvalid
    rw [hexpiry] at hlive hverdict ⊢
    exact ⟨hadopt, rfl, rfl, hlive, hverdict, rfl, rfl, rfl, hvalid, rfl, rfl, rfl⟩

theorem FrameRun.Expired.not_align (h : x.Expired v) : x.state.ctl.role ≠ .align := by
  have houtcome := h.outcome
  cases v with
  | true =>
    obtain ⟨hrole, -⟩ := houtcome
    rw [hrole]
    exact nofun
  | false =>
    obtain ⟨hrole, -⟩ := houtcome
    rw [hrole]
    exact nofun

theorem FrameRun.Expired.still (h : x.Expired v) : x.Still where
  adopt := h.adopt
  waits := .inl h.waited
  pending := by
    rw [h.req]
    exact nofun
  promotes := fun hjoin => h.not_align hjoin.1
  counts := fun hmember => by
    have houtcome := h.outcome
    cases v with
    | true =>
      obtain ⟨-, hcounts⟩ := houtcome
      exact ⟨h.verdict, hcounts⟩
    | false =>
      obtain ⟨hrole, -⟩ := houtcome
      exact absurd (hrole.symm.trans hmember) nofun

theorem Mild.expiredTo {s t : State} (h : Mild s t) (hlive : s.noneLive) (hs : s.expiredTo v) : t.expiredTo v := by
  have hctl := h.ctl
  cases v with
  | true =>
    show t.ctl.role = .member ∧ t.ctl.strikes = 0 ∧ t.ctl.ties = 0 ∧ t.ctl.split = .armed
    rw [hctl]
    exact hs
  | false =>
    obtain ⟨hrole, hlock, hbeacon⟩ := hs
    refine ⟨(congrArg (·.role) hctl).trans hrole, ?_, (h.beacon (by rw [hrole]; rfl)).trans hbeacon⟩
    rcases h.lock hlive with hl | hl
    · exact hl.trans hlock
    · exact hl

theorem FrameRun.Expired.work (h : x.Expired v) (w : FrameWork) : (x.work w).Expired v := by
  have hidle : x.state.catchUp.req.state = .idle := by
    rw [h.req]
    rfl
  have hmild := h.still.work_mild (fun _ => h.waited) (fun _ => hidle) (w := w)
  obtain ⟨hwaited, -, hnoted⟩ := FrameRun.work_sameWait (fun _ => h.waited) (.inl h.waited) (w := w)
  exact ⟨FrameRun.work_adopt_of_noneLive h.live h.adopt w, hwaited.trans h.waited, hnoted.trans h.noted,
    hmild.peers.noneLive h.live, hmild.peers.noVerdict h.verdict, (congrArg (·.stale) hmild.ctl).trans h.stale,
    (congrArg (·.foundingWait) hmild.ctl).trans h.wait, (hmild.resting hidle).trans h.req, hmild.valid.trans h.valid,
    hmild.expiredTo h.live h.outcome⟩

end

theorem State.alignExpires_frameStart {s : State} {v : Bool} (order : List FrameWork) (hrole : s.ctl.role = .align)
    (hwait : s.ctl.foundingWait = 31) (halone : s.alone) (hpending : s.catchUp.req.state ≠ .applyPending)
    (hvalid : s.wall.valid = v) (hholds : v = true → s.ctl.stale = true ∨ s.timer.lock ≠ .locked) :
    ∃ x : FrameRun, s.frameStart order = x.update State.latchFrame ∧ x.Expired v := by
  obtain ⟨hlive, -, hverdict⟩ := halone.quiet
  obtain ⟨-, -, hctl, hwall, -, hcatchUp, -⟩ := s.advanceFrame_rest
  have hpeers := PeersRel.fades_of_steady s.advanceFrame_steady
  have hlock : s.advanceFrame.timer.lock = s.timer.lock := by rw [s.advanceFrame_timer]
  refine State.frameStart_at (I := FrameRun.Expiring v) .foundingWait order ?_ (fun _ _ hw h => h.work hw) (fun _ h => h.expires)
    fun w _ _ h => h.work w
  exact ⟨rfl, rfl, hpeers.noneLive hlive, hpeers.noVerdict hverdict, (congrArg (·.role) hctl).trans hrole,
    (congrArg (·.foundingWait) hctl).trans hwait, fun h => hpending ((congrArg (·.req.state) hcatchUp).symm.trans h),
    (congrArg (·.valid) hwall).trans hvalid,
    fun hv => (hholds hv).imp (congrArg (·.stale) hctl).trans fun hnot hl => hnot (hlock.symm.trans hl)⟩

end Sys2Proof.Machine

namespace Sys2Proof

open Sys2Proof.Machine

/-- Settles O19. -/
theorem alignWaitExpiryMakesAMemberOrAListener : Obligations.AlignWaitExpiryMakesAMemberOrAListener := by
  unfold Obligations.AlignWaitExpiryMakesAMemberOrAListener
  intro order s hrunning hrole hwait halone hpending
  refine ⟨fun hvalid hholds => ?_, fun hvalid => ?_⟩
  · obtain ⟨x, hx, h⟩ := State.alignExpires_frameStart order hrole hwait halone hpending hvalid fun _ => hholds
    have houtcome := h.outcome
    obtain ⟨hmember, -⟩ := houtcome
    refine ⟨(s.frameStart order).state,
      congrArg Host.Outcome.next (State.frameStartWith_of_event hrunning (by rw [hx]; exact h.noted)), ?_⟩
    rw [hx]
    exact ⟨hmember, h.stale, h.wait, h.valid, h.req⟩
  · obtain ⟨x, hx, h⟩ := State.alignExpires_frameStart order hrole hwait halone hpending hvalid nofun
    have houtcome := h.outcome
    obtain ⟨hlisten, hlock, hbeacon⟩ := houtcome
    refine ⟨(s.frameStart order).state,
      congrArg Host.Outcome.next (State.frameStartWith_of_event hrunning (by rw [hx]; exact h.noted)), ?_⟩
    rw [hx]
    exact ⟨hlisten, h.stale, h.wait, hlock, hbeacon, h.req⟩

end Sys2Proof

/-!
# A founding (R11, R118)

A station in LISTEN counts its founding wait before the first piece that could write the wall state; what it founds stays.
-/

namespace Sys2Proof.Machine

open Sys2Proof

/-! ### What a founding leaves in every state -/

/-- The wall state is valid, and the founding wait at rest. -/
def State.isFounded (s : State) : Prop := s.wall.valid = true ∧ s.ctl.foundingWait = 0

theorem State.isFounded_of_eq {s t : State} (h : s.isFounded) (hctl : t.ctl = s.ctl) (hvalid : t.wall.valid = s.wall.valid) :
    t.isFounded := by
  obtain ⟨hs, hwait⟩ := h
  exact ⟨hvalid.trans hs, (congrArg (·.foundingWait) hctl).trans hwait⟩

theorem Mild.isFounded {s t : State} (h : Mild s t) (hs : s.isFounded) : t.isFounded := State.isFounded_of_eq hs h.ctl h.valid

theorem State.turned.isFounded {s t : State} (h : s.turned t) (hs : s.wall.valid = true) : t.isFounded := by
  obtain ⟨hctl, -, -, -, -, -, -, -, -, -, hwall, -⟩ := h
  exact ⟨(congrArg (·.valid) hwall).trans hs, congrArg (·.foundingWait) hctl⟩

theorem State.isFounded_renumberRole {s : State} (hs : s.isFounded) : s.renumberRole.isFounded := by
  unfold State.renumberRole
  split
  · exact (State.turnToAlign_turned (s.setStale true)).isFounded hs.1
  · obtain ⟨_, _, h, -⟩ := (s.setStale true).catchUpStart_eq
    rw [h]
    exact hs
  all_goals exact hs

theorem State.isFounded_listenToAlign {s : State} (hs : s.isFounded) : s.listenToAlign.isFounded := by
  obtain ⟨_, _, h, -⟩ := s.listenToAlign_eq
  rw [h]
  obtain ⟨_, howe⟩ := State.oweBeacon_eq _
  rw [howe]
  exact ⟨hs.1, rfl⟩

theorem State.isFounded_verdictWork {s : State} (hs : s.isFounded) : s.verdictWork.isFounded := by
  unfold State.verdictWork
  dsimp only
  split
  · unfold State.countVerdicts
    split
    · dsimp only
      split
      · exact (State.turnStale_turned _).isFounded hs.1
      · exact hs
    · split
      · unfold State.countTie
        dsimp only
        split <;> exact hs
      · split <;> exact hs
  · exact hs

theorem State.isFounded_promotion {s : State} (hs : s.isFounded) : s.promotion.isFounded := by
  rw [State.promotion_eq]
  split
  · exact ⟨hs.1, rfl⟩
  · exact hs

theorem State.isFounded_dumpApply {s : State} (hs : s.isFounded) : s.dumpApply.isFounded := by
  unfold State.dumpApply
  split
  · next h _ _ =>
    have hloaded : (s.loadDump h).isFounded := ⟨rfl, hs.2⟩
    have hdeferred : ((s.loadDump h).applyDeferred h.frame).isFounded :=
      State.applyDeferred_induction (P := State.isFounded) h.frame hloaded (fun _ _ ht => ht)
        fun t i e ht => (Mild.applyEntry t i e).isFounded ht
    obtain ⟨hwall, -, -, hctl, -⟩ := s.applyDump_rest h
    obtain ⟨hvalid, hwait⟩ := hdeferred
    exact ⟨(congrArg (·.valid) hwall).trans hvalid, (congrArg (·.foundingWait) hctl).trans hwait⟩
  · exact hs

/-- After the founding wait has been counted no piece takes a founding back. -/
theorem FrameRun.work_isFounded {x : FrameRun} (hwaited : x.waited = true) (hs : x.state.isFounded) (w : FrameWork) :
    (x.work w).state.isFounded := by
  have hfirst := FrameRun.foundFirst_of_waited hwaited
  cases w with
  | frameTimer => exact (Mild.timerWork x.state).isFounded hs
  | editRenumber =>
    rw [x.work_editRenumber]
    split
    · exact State.isFounded_of_eq hs (EditWork.dropAll _ _).ctl (congrArg (·.valid) (EditWork.dropAll _ _).wall)
    · exact hs
  | roleAdopt =>
    rw [x.work_roleAdopt]
    split
    · exact State.isFounded_renumberRole hs
    · split
      · exact State.isFounded_listenToAlign hs
      · exact hs
  | missCount =>
    have h := (Mild.missCount x.state).isFounded hs
    dsimp only [FrameRun.work]
    exact h
  | verdictCount => exact State.isFounded_verdictWork hs
  | promotion => exact State.isFounded_promotion hs
  | foundingWait =>
    show x.wait.state.isFounded
    rw [FrameRun.wait_of_waited hwaited]
    exact hs
  | dumpApply =>
    show x.foundFirst.state.dumpApply.isFounded
    rw [hfirst]
    exact State.isFounded_dumpApply hs
  | applications =>
    dsimp only [FrameRun.work, FrameRun.update]
    rw [hfirst]
    exact (Mild.applications x.state).isFounded hs
  | ownDeadlines =>
    dsimp only [FrameRun.work, FrameRun.update]
    exact (Mild.ownDeadlines x.state).isFounded hs
  | collectionDeadlines =>
    dsimp only [FrameRun.work, FrameRun.update]
    exact (Mild.collectionDeadlines x.state).isFounded hs
  | queryWaits =>
    dsimp only [FrameRun.work]
    exact (Mild.queryWaits x.state).isFounded hs
  | goInDoubt =>
    dsimp only [FrameRun.work, FrameRun.update]
    exact (Mild.goInDoubt x.state).isFounded hs
  | observerExpiry =>
    dsimp only [FrameRun.work, FrameRun.update]
    exact (Mild.observerExpiry x.state).isFounded hs
  | catchUpWaits =>
    obtain ⟨hwall, -, -, -, hctl⟩ := x.state.catchUpWaits_rest
    exact State.isFounded_of_eq hs hctl (congrArg (·.valid) hwall)
  | beaconRenewal => exact (Mild.beaconRenewal x.state).isFounded hs

/-! ### Before and after -/

/-- Before the founding: the wait is due, and no member is heard. -/
structure FrameRun.Founding (x : FrameRun) : Prop where
  adopt : x.adopt = none
  waited : x.waited = false
  role : x.state.ctl.role = .listen
  wait : x.state.ctl.foundingWait = 31
  member : x.state.memberLive = false

/-- After the founding. -/
structure FrameRun.Founded (x : FrameRun) : Prop where
  waited : x.waited = true
  noted : x.founded = true
  kept : x.state.isFounded

theorem FrameRun.Founded.work {x : FrameRun} (h : x.Founded) (w : FrameWork) : (x.work w).Founded := by
  obtain ⟨hwaited, hnoted, -⟩ := FrameRun.work_sameWait (fun _ => h.waited) (.inl h.waited) (w := w)
  exact ⟨hwaited.trans h.waited, hnoted.trans h.noted, FrameRun.work_isFounded h.waited h.kept w⟩

section
variable {x : FrameRun}

theorem FrameRun.Founding.unmoved (h : x.Founding) : x.Unmoved where
  adopt := h.adopt
  promotes := fun hjoin => absurd (h.role.symm.trans hjoin.1) nofun
  counts := fun hmember => absurd (h.role.symm.trans hmember) nofun

/-- The state of a run whose founding wait has run out. -/
theorem FrameRun.Founding.founds (h : x.Founding) : x.wait.state = x.state.found ∧ x.wait.waited = true ∧ x.wait.founded = true := by
  have hevent := State.waitEvent_of_founding h.role h.member (by rw [h.wait])
  have hnot : ¬ x.waited = true := by
    rw [h.waited]
    exact nofun
  rw [FrameRun.wait, if_neg hnot, hevent, State.waitWork_of_founding hevent]
  exact ⟨rfl, rfl, rfl⟩

theorem FrameRun.Founding.founded (h : x.Founding) : x.wait.Founded := by
  obtain ⟨hstate, hwaited, hnoted⟩ := h.founds
  refine ⟨hwaited, hnoted, ?_⟩
  rw [hstate]
  exact ⟨rfl, rfl⟩

/-- R11: the pieces of `FrameWork.founding` come after the founding. -/
theorem FrameRun.Founding.work_of_founding (h : x.Founding) {w : FrameWork} (hw : w ∈ FrameWork.founding) :
    x.work w = x.wait.work w := by
  obtain ⟨-, hwaited, -⟩ := h.founds
  have hfirst : x.foundFirst = x.wait := if_pos h.role
  cases w with
  | foundingWait => exact (FrameRun.wait_of_waited hwaited).symm
  | dumpApply | applications =>
    dsimp only [FrameRun.work]
    rw [hfirst, FrameRun.foundFirst_of_waited hwaited]
  | _ => exact absurd hw (by decide)

theorem FrameRun.work_waited_of_other {w : FrameWork} (hw : w ∉ FrameWork.founding) (x : FrameRun) : (x.work w).waited = x.waited := by
  cases w with
  | foundingWait | dumpApply | applications => exact absurd (by decide) hw
  | editRenumber =>
    show x.dropRenumbered.waited = _
    unfold FrameRun.dropRenumbered
    split <;> dsimp only [FrameRun.update]
  | roleAdopt =>
    show x.handOver.waited = _
    unfold FrameRun.handOver
    split <;> dsimp only [FrameRun.update]
  | _ => dsimp only [FrameRun.work, FrameRun.update]

theorem FrameRun.Founding.work_of_other (h : x.Founding) {w : FrameWork} (hw : w ∉ FrameWork.founding) : (x.work w).Founding := by
  have hmember := (x.work_fades w).memberLive h.member
  have hwaited := (x.work_waited_of_other hw).trans h.waited
  have hadopt : (x.work w).adopt = none := by
    by_cases htimer : w = .frameTimer
    · subst htimer
      exact State.timerWork_of_listen h.role h.member
    · rw [x.work_adopt htimer]
      exact h.adopt
  have hctl : (x.work w).state.ctl = x.state.ctl := by
    by_cases hreq : w = .catchUpWaits
    · subst hreq
      exact x.state.catchUpWaits_rest.2.2.2.2
    · exact (h.unmoved.work_mild hw fun hx => absurd hx hreq).ctl
  exact ⟨hadopt, hwaited, (congrArg (·.role) hctl).trans h.role, (congrArg (·.foundingWait) hctl).trans h.wait, hmember⟩

theorem FrameRun.Founding.work (h : x.Founding) (w : FrameWork) : (x.work w).Founding ∨ (x.work w).Founded := by
  by_cases hw : w ∈ FrameWork.founding
  · rw [h.work_of_founding hw]
    exact .inr (h.founded.work w)
  · exact .inl (h.work_of_other hw)

end

theorem State.founding_start {s : State} (hrole : s.ctl.role = .listen) (hwait : s.ctl.foundingWait = 31)
    (hmember : s.memberLive = false) : (FrameRun.start s.advanceFrame).Founding := by
  obtain ⟨-, -, hctl, -⟩ := s.advanceFrame_rest
  exact ⟨rfl, rfl, (congrArg (·.role) hctl).trans hrole, (congrArg (·.foundingWait) hctl).trans hwait,
    (PeersRel.fades_of_steady s.advanceFrame_steady).memberLive hmember⟩

theorem State.founds_frameStart {s : State} (order : List FrameWork) (hrole : s.ctl.role = .listen)
    (hwait : s.ctl.foundingWait = 31) (hmember : s.memberLive = false) :
    ∃ x : FrameRun, s.frameStart order = x.update State.latchFrame ∧ x.Founded :=
  State.frameStart_at (I := fun x => x.Founding ∨ x.Founded) .foundingWait order
    (.inl (State.founding_start hrole hwait hmember))
    (fun w _ _ h => h.elim (fun h => h.work w) fun h => .inr (h.work w))
    (fun _ h => h.elim (fun h => by
      rw [h.work_of_founding (by decide)]
      exact h.founded.work _) fun h => h.work _)
    fun w _ _ h => h.work w

/-! ### A station that hears nothing, holds no entry and asks for nothing -/

/-- Nothing can write the wall state. -/
def State.bare (s : State) : Prop :=
  s.noneLive ∧ s.noVerdict ∧ (∀ i, s.entryAt i = none) ∧ s.catchUp.req.state = .idle

/-- The wall state and the edit table stay. -/
def State.sameWall (s t : State) : Prop := s.wall = t.wall ∧ s.edit = t.edit

theorem State.missCount_of_noEntries {s : State} (h : ∀ i, s.entryAt i = none) :
    s.missCount.wall = s.wall ∧ s.missCount.edit = s.edit := by
  refine State.missCount_induction (P := fun t => t.wall = s.wall ∧ t.edit = s.edit) ⟨rfl, rfl⟩ fun n t ht => ?_
  have hlose : ∀ (u : State) (st : Station), u.wall = s.wall ∧ u.edit = s.edit →
      (u.loseVoter st).wall = s.wall ∧ (u.loseVoter st).edit = s.edit := fun u st hu => by
    have hnone : ∀ i, u.entryAt i = none := fun i => by
      rw [State.entryAt, hu.2]
      exact h i
    rw [State.loseVoter, State.forEntries_of_none hnone]
    exact hu
  have hput : ∀ p, (t.putPeer n p).wall = s.wall ∧ (t.putPeer n p).edit = s.edit := fun p => by
    obtain ⟨v, hv⟩ := t.putPeer_eq n p
    rw [hv]
    exact ht
  unfold State.missAt
  split
  · split
    · exact hput _
    · split
      · exact hlose _ _ (hput _)
      · split
        · exact hlose _ _ (hput _)
        · exact hput _
      all_goals exact ht
  · exact ht

theorem FrameRun.Unmoved.work_sameWall {x : FrameRun} (h : x.Unmoved) {w : FrameWork} (hw : w ∉ FrameWork.founding)
    (hbare : x.state.bare) : (x.work w).state.sameWall x.state := by
  obtain ⟨-, -, hnone, hidle⟩ := hbare
  have hsame : ∀ s : State, s = x.state → s.sameWall x.state := fun s hs => by
    rw [hs]
    exact ⟨rfl, rfl⟩
  cases w with
  | frameTimer =>
    obtain ⟨_, _, _, htimer, -⟩ := x.state.timerWork_eq
    show State.sameWall x.state.timerWork.1 x.state
    rw [htimer]
    exact ⟨rfl, rfl⟩
  | editRenumber => exact hsame _ (congrArg FrameRun.state (FrameRun.dropRenumbered_of_none h.adopt))
  | roleAdopt => exact hsame _ (congrArg FrameRun.state (FrameRun.handOver_of_none h.adopt))
  | missCount =>
    have hmiss := State.missCount_of_noEntries hnone
    dsimp only [FrameRun.work]
    exact hmiss
  | verdictCount =>
    show State.sameWall x.state.verdictWork x.state
    by_cases hrole : x.state.ctl.role = .member
    · rw [State.verdictWork_of_noVerdict hrole (h.counts hrole).1]
      exact ⟨rfl, rfl⟩
    · rw [State.verdictWork_of_other hrole]
      exact ⟨rfl, rfl⟩
  | promotion => exact hsame _ (State.promotion_of_not h.promotes)
  | foundingWait | dumpApply | applications => exact absurd (by decide) hw
  | ownDeadlines =>
    dsimp only [FrameRun.work, FrameRun.update]
    exact hsame _ (State.forEntries_of_none hnone _)
  | collectionDeadlines =>
    dsimp only [FrameRun.work, FrameRun.update]
    exact hsame _ (State.forEntries_of_none hnone _)
  | queryWaits =>
    dsimp only [FrameRun.work]
    exact hsame _ (State.forEntries_of_none hnone _)
  | goInDoubt =>
    dsimp only [FrameRun.work, FrameRun.update]
    exact hsame _ (State.forEntries_of_none hnone _)
  | observerExpiry =>
    dsimp only [FrameRun.work, FrameRun.update]
    exact hsame _ (State.forEntries_of_none hnone _)
  | catchUpWaits => exact hsame _ (State.catchUpWaits_of_resting (.inl hidle))
  | beaconRenewal =>
    show State.sameWall x.state.beaconRenewal x.state
    unfold State.beaconRenewal
    split
    · obtain ⟨_, howe⟩ := x.state.oweBeacon_eq
      rw [howe]
      exact ⟨rfl, rfl⟩
    · exact ⟨rfl, rfl⟩

/-- Without an entry no piece writes the wall state or the edit table. -/
theorem FrameRun.Still.work_sameWall {x : FrameRun} (h : x.Still) (hwaited : x.waited = true) (hbare : x.state.bare) (w : FrameWork) :
    (x.work w).state.sameWall x.state := by
  have hfirst := FrameRun.foundFirst_of_done h.waits
  by_cases hw : w ∈ FrameWork.founding
  · have hsame : (x.work w).state = x.state := by
      obtain ⟨-, -, hnone, -⟩ := hbare
      cases w with
      | foundingWait => exact congrArg FrameRun.state (FrameRun.wait_of_waited hwaited)
      | dumpApply =>
        show x.foundFirst.state.dumpApply = x.state
        rw [hfirst]
        exact State.dumpApply_of_not_pending h.pending
      | applications =>
        dsimp only [FrameRun.work, FrameRun.update]
        rw [hfirst, State.applications, State.takeDue_of_none hnone, State.takeDue_of_none hnone]
      | _ => exact absurd hw (by decide)
    rw [hsame]
    exact ⟨rfl, rfl⟩
  · exact h.toUnmoved.work_sameWall hw hbare

theorem State.bare_of_mild {s t : State} (h : Mild s t) (hsame : t.sameWall s) (hs : s.bare) : t.bare := by
  obtain ⟨hlive, hverdict, hnone, hidle⟩ := hs
  obtain ⟨-, hedit⟩ := hsame
  refine ⟨h.peers.noneLive hlive, h.peers.noVerdict hverdict, fun i => ?_, h.reqState.trans hidle⟩
  rw [State.entryAt, hedit]
  exact hnone i

/-- The wall state of a founding, and what protects it until the frame start ends. -/
structure FrameRun.FoundedBare (x : FrameRun) : Prop where
  adopt : x.adopt = none
  waited : x.waited = true
  bare : x.state.bare
  role : x.state.ctl.role = .member
  counts : x.state.uncontested
  wall : x.state.wall = ⟨tabulate 256 greyRamp, 0, 0, 255, false, 0, true⟩

section
variable {x : FrameRun}

theorem FrameRun.FoundedBare.still (h : x.FoundedBare) : x.Still where
  adopt := h.adopt
  waits := .inl h.waited
  pending := by
    obtain ⟨-, -, -, hidle⟩ := h.bare
    rw [hidle]
    exact nofun
  promotes := fun hjoin => absurd (h.role.symm.trans hjoin.1) nofun
  counts := fun _ => h.counts

theorem FrameRun.FoundedBare.work (h : x.FoundedBare) (w : FrameWork) : (x.work w).FoundedBare := by
  obtain ⟨hlive, -, -, hidle⟩ := id h.bare
  have hmild := h.still.work_mild (fun _ => h.waited) (fun _ => hidle) (w := w)
  have hsame := h.still.work_sameWall h.waited h.bare w
  obtain ⟨hwaited, -⟩ := FrameRun.work_sameWait (fun _ => h.waited) (.inl h.waited) (w := w)
  have hbare := State.bare_of_mild hmild hsame h.bare
  obtain ⟨-, hcounts⟩ := h.counts
  refine ⟨FrameRun.work_adopt_of_noneLive hlive h.adopt w, hwaited.trans h.waited, hbare, (congrArg (·.role) hmild.ctl).trans h.role,
    ⟨hbare.2.1, ?_⟩, hsame.1.trans h.wall⟩
  rw [hmild.ctl]
  exact hcounts

theorem FrameRun.Founding.work_bare (h : x.Founding) (hbare : x.state.bare) {w : FrameWork} (hw : w ∉ FrameWork.founding) :
    (x.work w).state.bare := by
  obtain ⟨-, -, -, hidle⟩ := id hbare
  exact State.bare_of_mild (h.unmoved.work_mild hw fun _ => hidle) (h.unmoved.work_sameWall hw hbare) hbare

/-- R118: the founding at a bare station. -/
theorem FrameRun.Founding.foundedBare (h : x.Founding) (hbare : x.state.bare) : x.wait.FoundedBare := by
  obtain ⟨hstate, hwaited, -⟩ := h.founds
  obtain ⟨hadopt, -⟩ := x.wait_sameMarks
  obtain ⟨-, hverdict, -⟩ := id hbare
  have hfound : x.wait.state.bare ∧ x.wait.state.ctl.role = .member ∧ x.wait.state.uncontested
      ∧ x.wait.state.wall = ⟨tabulate 256 greyRamp, 0, 0, 255, false, 0, true⟩ := by
    rw [hstate, State.found_eq]
    exact ⟨hbare, rfl, ⟨hverdict, rfl, rfl, rfl⟩, rfl⟩
  obtain ⟨hb, hrole, hcounts, hwall⟩ := hfound
  exact ⟨hadopt.trans h.adopt, hwaited, hb, hrole, hcounts, hwall⟩

theorem FrameRun.Founding.workBare (h : x.Founding ∧ x.state.bare) (w : FrameWork) :
    ((x.work w).Founding ∧ (x.work w).state.bare) ∨ (x.work w).FoundedBare := by
  obtain ⟨h, hbare⟩ := h
  by_cases hw : w ∈ FrameWork.founding
  · rw [h.work_of_founding hw]
    exact .inr ((h.foundedBare hbare).work w)
  · exact .inl ⟨h.work_of_other hw, h.work_bare hbare hw⟩

end

theorem State.foundsBare_frameStart {s : State} (order : List FrameWork) (hrole : s.ctl.role = .listen)
    (hwait : s.ctl.foundingWait = 31) (hmember : s.memberLive = false) (hbare : s.bare) :
    ∃ x : FrameRun, s.frameStart order = x.update State.latchFrame ∧ x.FoundedBare := by
  obtain ⟨hlive, hverdict, hnone, hidle⟩ := hbare
  obtain ⟨-, hedit, -, -, -, hcatchUp, -⟩ := s.advanceFrame_rest
  have hpeers := PeersRel.fades_of_steady s.advanceFrame_steady
  have hstart : s.advanceFrame.bare := by
    refine ⟨hpeers.noneLive hlive, hpeers.noVerdict hverdict, fun i => ?_, (congrArg (·.req.state) hcatchUp).trans hidle⟩
    rw [State.entryAt, hedit]
    exact hnone i
  exact State.frameStart_at (I := fun x => (x.Founding ∧ x.state.bare) ∨ x.FoundedBare) .foundingWait order
    (.inl ⟨State.founding_start hrole hwait hmember, hstart⟩)
    (fun w _ _ h => h.elim (fun h => FrameRun.Founding.workBare h w) fun h => .inr (h.work w))
    (fun _ h => h.elim (fun ⟨h, hbare⟩ => by
      rw [h.work_of_founding (by decide)]
      exact (h.foundedBare hbare).work _) fun h => h.work _)
    fun w _ _ h => h.work w

end Sys2Proof.Machine

namespace Sys2Proof

open Sys2Proof.Machine

/-- Settles O18. -/
theorem foundingEstablishesTheDefaultState : Obligations.FoundingEstablishesTheDefaultState := by
  unfold Obligations.FoundingEstablishesTheDefaultState
  intro order s hrunning hrole hwait hpeers
  have hmember : s.memberLive = false := by
    rw [← Bool.not_eq_true, State.memberLive_iff]
    rintro ⟨n, p, hp, hlive, hreported⟩
    exact hpeers n p hp ⟨hlive, hreported⟩
  obtain ⟨x, hx, h⟩ := State.founds_frameStart order hrole hwait hmember
  obtain ⟨hvalid, hfounding⟩ := h.kept
  refine ⟨(s.frameStart order).state,
    congrArg Host.Outcome.next (State.frameStartWith_of_event hrunning (by rw [hx]; exact h.noted)), ?_, ?_, ?_⟩
  · rw [hx]
    exact hvalid
  · rw [hx]
    exact hfounding
  · intro halone hnone hidle
    obtain ⟨hlive, -, hverdict⟩ := halone.quiet
    obtain ⟨y, hy, hbare⟩ := State.foundsBare_frameStart order hrole hwait hmember ⟨hlive, hverdict, hnone, hidle⟩
    rw [hy]
    exact ⟨hbare.role, hbare.wall⟩

end Sys2Proof

/-!
# The query wait of an entry (R65)

At a station that hears no peer, no piece of a frame start besides the query waits touches an entry in doubt.
-/

namespace Sys2Proof.Machine

open Sys2Proof

/-- What stands at an index is an entry in doubt that no dump has overtaken, or nothing. -/
def standsInDoubt (o : Option EditEntry) : Prop := ∀ e, o = some e → e.state = .inDoubt ∧ e.deferred = false

theorem standsInDoubt_some {e : EditEntry} (hstate : e.state = .inDoubt) (hdeferred : e.deferred = false) :
    standsInDoubt (some e) := fun _ h => Option.some.inj h ▸ ⟨hstate, hdeferred⟩

theorem standsInDoubt_none : standsInDoubt none := fun _ h => absurd h.symm (Option.some_ne_none _)

section
variable {o : Option EditEntry}

theorem standsInDoubt.bind_eq (h : standsInDoubt o) {f : EditEntry → Option EditEntry}
    (hf : ∀ e, e.state = .inDoubt → e.deferred = false → f e = some e) : o.bind f = o := by
  cases o with
  | none => rfl
  | some e =>
    obtain ⟨hstate, hdeferred⟩ := h e rfl
    exact hf e hstate hdeferred

theorem standsInDoubt.map_eq (h : standsInDoubt o) {f : EditEntry → EditEntry}
    (hf : ∀ e, e.state = .inDoubt → e.deferred = false → f e = e) : o.map f = o := by
  cases o with
  | none => rfl
  | some e =>
    obtain ⟨hstate, hdeferred⟩ := h e rfl
    exact congrArg some (hf e hstate hdeferred)

end

/-! ### The pieces of work -/

theorem State.entryAt_of_edit {s t : State} (h : t.edit = s.edit) (k : Nat) : t.entryAt k = s.entryAt k := by
  rw [State.entryAt, h]
  rfl

section
variable {s : State} {k : Nat}

theorem State.takeDue_entryAt_of_inDoubt {due : EditEntry → Bool} (hdue : ∀ e : EditEntry, e.state = .inDoubt → due e = false)
    (h : standsInDoubt (s.entryAt k)) : (s.takeDue due).entryAt k = s.entryAt k := by
  cases hc : s.catchingUp with
  | false =>
    obtain ⟨-, -, hat⟩ := State.takeDue_of_idle due hc
    rw [hat]
    exact h.bind_eq fun e hstate _ => by rw [hdue e hstate]; rfl
  | true =>
    obtain ⟨-, hat⟩ := State.takeDue_of_catchingUp due hc
    rw [hat]
    refine h.map_eq fun e hstate _ => if_neg fun hmem => ?_
    have hdue' : due e = true := (State.mem_dueEntries.1 hmem).2
    exact absurd (hdue'.symm.trans (hdue e hstate)) nofun

theorem State.applications_entryAt_of_inDoubt (h : standsInDoubt (s.entryAt k)) : s.applications.entryAt k = s.entryAt k := by
  have hontime : ∀ e : EditEntry, e.state = .inDoubt → e.dueOnTime s.frame = false := fun e he => by
    rw [EditEntry.dueOnTime, he]
    rfl
  have hlate : ∀ e : EditEntry, e.state = .inDoubt → e.dueLate = false := fun e he => by
    rw [EditEntry.dueLate, he]
    rfl
  have hfirst := State.takeDue_entryAt_of_inDoubt hontime h
  exact (State.takeDue_entryAt_of_inDoubt hlate (by rw [hfirst]; exact h)).trans hfirst

theorem State.dumpApply_entryAt_of_inDoubt (h : standsInDoubt (s.entryAt k)) : s.dumpApply.entryAt k = s.entryAt k := by
  unfold State.dumpApply
  split
  · next hd _ _ =>
    obtain ⟨-, -, hedit, -⟩ := s.applyDump_rest hd
    rw [State.entryAt_of_edit hedit, State.entryAt_applyDeferred]
    exact h.bind_eq fun e _ hdeferred => by rw [hdeferred]; rfl
  · rfl

theorem State.waitWork_entryAt_of_inDoubt (h : standsInDoubt (s.entryAt k)) : s.waitWork.entryAt k = s.entryAt k := by
  cases hevent : s.waitEvent with
  | founding =>
    rw [State.waitWork_of_founding hevent]
    exact State.entryAt_of_edit (congrArg State.edit s.found_eq) k
  | alignExpiry =>
    rw [State.waitWork_of_alignExpiry hevent, State.alignExpiry_entryAt]
    exact h.map_eq fun e _ hdeferred => by rw [← hdeferred]
  | nothing =>
    rw [State.waitWork_of_nothing hevent]
    split
    · split <;> rfl
    · rfl

theorem FrameRun.foundFirst_entryAt_of_inDoubt {x : FrameRun} (h : standsInDoubt (x.state.entryAt k)) :
    x.foundFirst.state.entryAt k = x.state.entryAt k := by
  rcases x.foundFirst_state with hx | hx <;> rw [hx]
  exact State.waitWork_entryAt_of_inDoubt h

end

/-- R77: where no entry is LIVE or HEARD the miss count marks the Peer Table alone. -/
theorem State.missCount_of_noneHeard {s : State} (hlive : s.noneLive) (hheard : s.noneHeard) : s.missCount.edit = s.edit := by
  have h : s.missCount.edit = s.edit ∧ s.missCount.noneLive ∧ s.missCount.noneHeard := by
    refine State.missCount_induction (P := fun t => t.edit = s.edit ∧ t.noneLive ∧ t.noneHeard) ⟨rfl, hlive, hheard⟩ ?_
    rintro n t ⟨hedit, htlive, htheard⟩
    have hfades := (Mild.missAt t n).peers
    refine ⟨?_, hfades.noneLive htlive, hfades.noneHeard htheard⟩
    unfold State.missAt
    split
    · next p hp =>
      split
      · obtain ⟨v, hv⟩ := t.putPeer_eq n { p with seen := false }
        rw [hv]
        exact hedit
      · split
        · next hstate => exact absurd hstate (htheard n p hp)
        · next hstate => exact absurd hstate (htlive n p hp)
        all_goals exact hedit
    · exact hedit
  exact h.1

/-! ### A frame start at which nothing is heard -/

/-- No peer is heard, and no adopt is decided. -/
structure FrameRun.Unheard (x : FrameRun) : Prop where
  adopt : x.adopt = none
  live : x.state.noneLive
  heard : x.state.noneHeard
  verdict : x.state.noVerdict

section
variable {x : FrameRun} {k : Nat}

theorem FrameRun.Unheard.work (h : x.Unheard) (w : FrameWork) : (x.work w).Unheard := by
  have hfades := x.work_fades w
  exact ⟨FrameRun.work_adopt_of_noneLive h.live h.adopt w, hfades.noneLive h.live, hfades.noneHeard h.heard,
    hfades.noVerdict h.verdict⟩

theorem FrameRun.Unheard.work_entryAt (h : x.Unheard) {w : FrameWork} (hw : w ≠ .queryWaits)
    (hk : standsInDoubt (x.state.entryAt k)) : (x.work w).state.entryAt k = x.state.entryAt k := by
  have hfirst := FrameRun.foundFirst_entryAt_of_inDoubt hk
  cases w with
  | queryWaits => exact absurd rfl hw
  | frameTimer =>
    obtain ⟨_, _, _, htimer, -⟩ := x.state.timerWork_eq
    exact State.entryAt_of_edit (t := x.state.timerWork.1) (by rw [htimer]) k
  | editRenumber =>
    show x.dropRenumbered.state.entryAt k = _
    rw [FrameRun.dropRenumbered_of_none h.adopt]
  | roleAdopt =>
    show x.handOver.state.entryAt k = _
    rw [FrameRun.handOver_of_none h.adopt]
  | missCount =>
    have hmiss := State.entryAt_of_edit (State.missCount_of_noneHeard h.live h.heard) k
    dsimp only [FrameRun.work]
    exact hmiss
  | verdictCount =>
    refine State.entryAt_of_edit (t := x.state.verdictWork) ?_ k
    by_cases hrole : x.state.ctl.role = .member
    · rw [State.verdictWork_of_noVerdict hrole h.verdict]
      rfl
    · rw [State.verdictWork_of_other hrole]
      rfl
  | promotion =>
    refine State.entryAt_of_edit (t := x.state.promotion) ?_ k
    rw [State.promotion_eq]
    split <;> rfl
  | foundingWait =>
    show x.wait.state.entryAt k = _
    rw [x.wait_state]
    split
    · rfl
    · exact State.waitWork_entryAt_of_inDoubt hk
  | dumpApply =>
    show x.foundFirst.state.dumpApply.entryAt k = _
    exact (State.dumpApply_entryAt_of_inDoubt (by rw [hfirst]; exact hk)).trans hfirst
  | applications =>
    dsimp only [FrameRun.work, FrameRun.update]
    exact (State.applications_entryAt_of_inDoubt (by rw [hfirst]; exact hk)).trans hfirst
  | ownDeadlines =>
    dsimp only [FrameRun.work, FrameRun.update]
    rw [State.ownDeadlines_entryAt]
    exact hk.bind_eq fun e he _ => if_neg fun ⟨_, hstate, _⟩ => hstate.elim (fun h => absurd (he.symm.trans h) nofun) fun h => absurd (he.symm.trans h) nofun
  | collectionDeadlines =>
    dsimp only [FrameRun.work, FrameRun.update]
    rw [State.collectionDeadlines_entryAt]
    exact hk.bind_eq fun e he _ => if_neg fun ⟨hstate, _⟩ => absurd (he.symm.trans hstate) nofun
  | goInDoubt =>
    dsimp only [FrameRun.work, FrameRun.update]
    rw [State.goInDoubt_entryAt]
    exact hk.bind_eq fun e he _ => if_neg fun ⟨_, hstate, _⟩ => absurd (he.symm.trans hstate) nofun
  | observerExpiry =>
    dsimp only [FrameRun.work, FrameRun.update]
    rw [State.observerExpiry_entryAt]
    exact hk.bind_eq fun e he _ => if_neg fun ⟨_, hstate, _⟩ => absurd (he.symm.trans hstate) nofun
  | catchUpWaits => exact State.entryAt_of_edit x.state.catchUpWaits_rest.2.1 k
  | beaconRenewal =>
    refine State.entryAt_of_edit (t := x.state.beaconRenewal) ?_ k
    unfold State.beaconRenewal
    split
    · obtain ⟨_, howe⟩ := x.state.oweBeacon_eq
      rw [howe]
    · rfl

end

/-! ### The query waits in a frame start -/

theorem State.queryEnds {s : State} {k : Nat} {e : EditEntry} (hk : s.entryAt k = some e) (h : e.queryExpires = true) :
    ((s.entries.filter fun x => x.2.queryExpires).map fun x => x.2.id).contains e.id = true :=
  List.contains_iff_mem.2 (List.mem_map.2 ⟨(k, e), List.mem_filter.2 ⟨State.mem_entries.2 hk, h⟩, rfl⟩)

theorem FrameRun.work_queryWaits (x : FrameRun) : (x.work .queryWaits).state = x.state.queryWaits
    ∧ (x.work .queryWaits).queriesEnded = (x.state.entries.filter fun e => e.2.queryExpires).map fun e => e.2.id := by
  dsimp only [FrameRun.work]
  exact ⟨rfl, rfl⟩

/-- What the query waits make of an entry whose wait runs out stands until the frame start ends. -/
theorem State.queryExpires_frameStart {s : State} {k : Nat} {e : EditEntry} {o : Option EditEntry → Prop} (order : List FrameWork)
    (halone : s.alone) (hk : s.entryAt k = some e) (hdoubt : e.state = .inDoubt) (hdeferred : e.deferred = false)
    (hends : e.queryExpires = true) (hwaits : ∀ t : State, t.entryAt k = some e → o (t.queryWaits.entryAt k))
    (ho : ∀ e', o e' → standsInDoubt e') :
    ∃ x : FrameRun, s.frameStart order = x.update State.latchFrame ∧ x.queriesEnded.contains e.id = true ∧ o (x.state.entryAt k) := by
  obtain ⟨hlive, hheard, hverdict⟩ := halone.quiet
  obtain ⟨-, hedit, -⟩ := s.advanceFrame_rest
  have hpeers := PeersRel.fades_of_steady s.advanceFrame_steady
  obtain ⟨x, hx, -, h⟩ : ∃ x : FrameRun, s.frameStart order = x.update State.latchFrame
      ∧ x.Unheard ∧ x.queriesEnded.contains e.id = true ∧ o (x.state.entryAt k) := by
    refine State.frameStart_at (I := fun x => x.Unheard ∧ x.state.entryAt k = some e) .queryWaits order
      ⟨⟨rfl, hpeers.noneLive hlive, hpeers.noneHeard hheard, hpeers.noVerdict hverdict⟩, (State.entryAt_of_edit hedit k).trans hk⟩
      ?_ ?_ ?_
    · rintro v x hv ⟨hx, hat⟩
      exact ⟨hx.work v, (hx.work_entryAt hv (by rw [hat]; exact standsInDoubt_some hdoubt hdeferred)).trans hat⟩
    · rintro x ⟨hx, hat⟩
      obtain ⟨hstate, hended⟩ := x.work_queryWaits
      rw [hstate, hended]
      exact ⟨hx.work _, State.queryEnds hat hends, hwaits x.state hat⟩
    · rintro v x hv ⟨hx, hnoted, hat⟩
      refine ⟨hx.work v, ?_, ?_⟩
      · rw [x.work_queriesEnded hv]
        exact hnoted
      · rw [hx.work_entryAt hv (ho _ hat)]
        exact hat
  exact ⟨x, hx, h⟩

/-- An entry on its second try. -/
def onSecondTry (o : Option EditEntry) : Prop :=
  ∃ e, o = some e ∧ e.state = .inDoubt ∧ e.deferred = false ∧ e.queryTries = some 2 ∧ e.queryWait = some 8
    ∧ e.owed.map (·.kind) = some .query

theorem onSecondTry.stands {o : Option EditEntry} (h : onSecondTry o) : standsInDoubt o := by
  obtain ⟨e, rfl, hstate, hdeferred, -⟩ := h
  exact standsInDoubt_some hstate hdeferred

section
variable {s : State} {k : Nat} {e : EditEntry}

theorem State.queryWaits_onSecondTry (hk : s.entryAt k = some e) (hdoubt : e.state = .inDoubt) (hdeferred : e.deferred = false)
    (hwait : e.queryWait = some 1) (htries : e.queryTries = some 1) : onSecondTry (s.queryWaits.entryAt k) := by
  obtain ⟨t, -, ht, hat⟩ := State.queryWaits_entryAt_of_held hk
  rw [hat, queryWaitsAt_of_again hdoubt hwait le_rfl htries, State.queryAgain_entryAt ht]
  refine ⟨_, rfl, hdoubt, hdeferred, rfl, rfl, ?_⟩
  dsimp only
  split
  · next hkeep => exact hkeep.1
  · rfl

theorem State.queryWaits_givesUp (hk : s.entryAt k = some e) (hdoubt : e.state = .inDoubt) (hwait : e.queryWait = some 1)
    (htries : e.queryTries = some 2) : s.queryWaits.entryAt k = none := by
  obtain ⟨t, -, -, hat⟩ := State.queryWaits_entryAt_of_held hk
  rw [hat, queryWaitsAt_of_last hdoubt hwait le_rfl (by rw [htries]; decide)]
  exact State.entryAt_dropEntry_self _ _ _ _ _

end

end Sys2Proof.Machine

namespace Sys2Proof

open Sys2Proof.Machine

/-- Settles O20. -/
theorem queryWaitExpiryAsksAgainOrGivesUp : Obligations.QueryWaitExpiryAsksAgainOrGivesUp := by
  unfold Obligations.QueryWaitExpiryAsksAgainOrGivesUp
  intro id order s k e hrunning halone hk hid hdoubt hdeferred hwait
  subst hid
  have hends : e.queryExpires = true := EditEntry.queryExpires_iff.2 ⟨hdoubt, 1, hwait, le_rfl⟩
  refine ⟨fun htries => ?_, fun htries => ?_⟩
  · obtain ⟨x, hx, hnoted, e', hat, hstate, -, hsecond⟩ := State.queryExpires_frameStart (o := onSecondTry) order halone hk hdoubt
      hdeferred hends (fun t ht => State.queryWaits_onSecondTry ht hdoubt hdeferred hwait htries) fun _ h => h.stands
    refine ⟨(s.frameStart order).state, e',
      congrArg Host.Outcome.next (State.frameStartWith_of_event hrunning (by rw [hx]; exact hnoted)), ?_, hstate, hsecond⟩
    rw [hx]
    exact hat
  · obtain ⟨x, hx, hnoted, hat⟩ := State.queryExpires_frameStart (o := fun o => o = none) order halone hk hdoubt hdeferred hends
      (fun t ht => State.queryWaits_givesUp ht hdoubt hwait htries) fun _ h => h ▸ standsInDoubt_none
    refine ⟨(s.frameStart order).state,
      congrArg Host.Outcome.next (State.frameStartWith_of_event hrunning (by rw [hx]; exact hnoted)), ?_⟩
    rw [hx]
    exact hat

end Sys2Proof
